-- ==== Sys2Proof/Word.lean ====
section
/-! DEFINITION. The bit widths of the chip8emu CORE (00_scope.md R6, R8): bytes, 16-bit words and the narrower
operand fields. -/

namespace Sys2Proof

/-- A byte: a general register, a timer, a memory or framebuffer cell (R8). -/
abbrev Byte := BitVec 8

/-- A 16-bit value: the instruction word, `I`, `pc`, a return address (10_state.md R24, R25, R33, R41). -/
abbrev Word := BitVec 16

/-- A 4-bit register index `x` or `y`; every value names a register (10_state.md R21). -/
abbrev Reg := BitVec 4

/-- The 4-bit sprite height `n` (30_encoding.md R73). -/
abbrev Nibble := BitVec 4

/-- A 12-bit address operand `nnn` (30_encoding.md R73). -/
abbrev Addr12 := BitVec 12

/-- Register 15, `VF`, which doubles as the flag (10_state.md R22). -/
abbrev VF : Reg := 15#4

/-- Register 0, the one `Bnnn` reads (42_flow.md R144). -/
abbrev V0 : Reg := 0#4

end Sys2Proof
end

