-- ==== Sys2Proof/Machine/Flags.lean ====
section
/-! DEFINITION. Every flag the ISA computes, as the byte that goes to `VF`: always exactly 0 or 1 (10_state.md R22).
Operands are widened to naturals, computed exactly, and compared. -/

namespace Sys2Proof.Machine

/-- A flag's value in `VF` (R22). -/
def flagByte (b : Bool) : Byte := if b then 1 else 0

/-- `8xy4`: the carry out of bit 7, `sum > 255` (43_alu.md R166). -/
def carryFlag (a b : Byte) : Byte := flagByte (decide (a.toNat + b.toNat > 255))

/-- `8xy5` and, with the operands exchanged, `8xy7`: strictly greater, so equality gives 0 (43_alu.md R167, R169). -/
def greaterFlag (a b : Byte) : Byte := flagByte (decide (a.toNat > b.toNat))

/-- `8xy6`: the bit shifted out, the old bit 0 (43_alu.md R168). -/
def shiftRightFlag (a : Byte) : Byte := flagByte (a.getLsbD 0)

/-- `8xyE`: the bit shifted out, the old bit 7 (43_alu.md R170). -/
def shiftLeftFlag (a : Byte) : Byte := flagByte (a.getLsbD 7)

/-- `Dxyn`: the collision bit (41_display.md R123). -/
def collisionFlag (collide : Bool) : Byte := flagByte collide

end Sys2Proof.Machine
end

