-- ==== Sys2Proof/Decode.lean ====
section
/-! DEFINITION. The decoder (30_encoding.md R70 to R80), total on words, and on bytes up to the one thing that can be
missing, the second byte; then the encoder, written from the same formats (R72). -/

namespace Sys2Proof

/-- `o`, the major opcode, `w[15:12]` (R71). -/
def opField (w : Word) : BitVec 4 := w.extractLsb' 12 4

/-- `x`, `w[11:8]` (R71). -/
def xField (w : Word) : Reg := w.extractLsb' 8 4

/-- `y`, `w[7:4]` (R71). -/
def yField (w : Word) : Reg := w.extractLsb' 4 4

/-- `n`, `w[3:0]` (R71). -/
def nField (w : Word) : Nibble := w.extractLsb' 0 4

/-- `kk`, `w[7:0]` (R71). -/
def kkField (w : Word) : Byte := w.extractLsb' 0 8

/-- `nnn`, `w[11:0]` (R71). -/
def nnnField (w : Word) : Addr12 := w.extractLsb' 0 12

/-- Group 0 tests the whole word (R74, R76). -/
def decodeGroup0 (w : Word) : Instr :=
  if w = 0x00E0 then .cls
  else if w = 0x00EE then .ret
  else .unrecognized w

/-- Groups 5 and 9 test the low nibble (R74, 90_conflicts.md C3). -/
def decodeRegSkip (skip : Reg → Reg → Instr) (w : Word) : Instr :=
  if nField w = 0 then skip (xField w) (yField w) else .unrecognized w

/-- Group 8 dispatches on `n` (R77). -/
def decodeGroup8 (w : Word) : Instr :=
  match (nField w).toNat with
  | 0x0 => .ldReg (xField w) (yField w)
  | 0x1 => .orReg (xField w) (yField w)
  | 0x2 => .andReg (xField w) (yField w)
  | 0x3 => .xorReg (xField w) (yField w)
  | 0x4 => .addReg (xField w) (yField w)
  | 0x5 => .subReg (xField w) (yField w)
  | 0x6 => .shr (xField w) (yField w)
  | 0x7 => .subn (xField w) (yField w)
  | 0xE => .shl (xField w) (yField w)
  | _   => .unrecognized w

/-- Group E dispatches on `kk` (R78). -/
def decodeGroupE (w : Word) : Instr :=
  if kkField w = 0x9E then .skp (xField w)
  else if kkField w = 0xA1 then .sknp (xField w)
  else .unrecognized w

/-- Group F dispatches on `kk` (R79). -/
def decodeGroupF (w : Word) : Instr :=
  if kkField w = 0x07 then .ldXDt (xField w)
  else if kkField w = 0x0A then .ldXK (xField w)
  else if kkField w = 0x15 then .ldDtX (xField w)
  else if kkField w = 0x18 then .ldStX (xField w)
  else if kkField w = 0x1E then .addI (xField w)
  else if kkField w = 0x29 then .ldF (xField w)
  else if kkField w = 0x33 then .ldB (xField w)
  else if kkField w = 0x55 then .stRegs (xField w)
  else if kkField w = 0x65 then .ldRegs (xField w)
  else .unrecognized w

/-- `decode(w)` of 30_encoding.md R74. -/
def decode (w : Word) : Instr :=
  match (opField w).toNat with
  | 0x0 => decodeGroup0 w
  | 0x1 => .jp (nnnField w)
  | 0x2 => .call (nnnField w)
  | 0x3 => .seImm (xField w) (kkField w)
  | 0x4 => .sneImm (xField w) (kkField w)
  | 0x5 => decodeRegSkip .seReg w
  | 0x6 => .ldImm (xField w) (kkField w)
  | 0x7 => .addImm (xField w) (kkField w)
  | 0x8 => decodeGroup8 w
  | 0x9 => decodeRegSkip .sneReg w
  | 0xA => .ldI (nnnField w)
  | 0xB => .jpV0 (nnnField w)
  | 0xC => .rnd (xField w) (kkField w)
  | 0xD => .drw (xField w) (yField w) (nField w)
  | 0xE => decodeGroupE w
  | _   => decodeGroupF w

/-- The word two consecutive bytes make, the first the high one (20_memory.md R54). -/
def wordOfBytes (hi lo : Byte) : Word := hi ++ lo

/-- The only way bytes fail to give an instruction. -/
inductive DecodeError where
  /-- Fewer than the two bytes of a word (30_encoding.md R70). -/
  | truncated
  deriving DecidableEq, Repr

/-- The instruction at the head of a byte string, with the bytes after it. -/
def decodeBytes : List Byte → Except DecodeError (Instr × List Byte)
  | hi :: lo :: rest => .ok (decode (wordOfBytes hi lo), rest)
  | _ => .error .truncated

/-! The encoder. -/

/-- Format NNN: `o[4] nnn[12]` (R72). -/
def encodeNNN (o : BitVec 4) (nnn : Addr12) : Word := o ++ nnn

/-- Format XKK: `o[4] x[4] kk[8]`, and format XSS with its fixed byte as `kk` (R72). -/
def encodeXKK (o : BitVec 4) (x : Reg) (kk : Byte) : Word := (o ++ x) ++ kk

/-- Format XYN: `o[4] x[4] y[4] n[4]`, and format XYS with its fixed nibble as `n` (R72). -/
def encodeXYN (o : BitVec 4) (x y : Reg) (n : Nibble) : Word := ((o ++ x) ++ y) ++ n

/-- The word of an instruction (R72 to R79). -/
def encode : Instr → Word
  | .cls => 0x00E0
  | .ret => 0x00EE
  | .jp nnn => encodeNNN 0x1 nnn
  | .call nnn => encodeNNN 0x2 nnn
  | .seImm x kk => encodeXKK 0x3 x kk
  | .sneImm x kk => encodeXKK 0x4 x kk
  | .seReg x y => encodeXYN 0x5 x y 0x0
  | .ldImm x kk => encodeXKK 0x6 x kk
  | .addImm x kk => encodeXKK 0x7 x kk
  | .ldReg x y => encodeXYN 0x8 x y 0x0
  | .orReg x y => encodeXYN 0x8 x y 0x1
  | .andReg x y => encodeXYN 0x8 x y 0x2
  | .xorReg x y => encodeXYN 0x8 x y 0x3
  | .addReg x y => encodeXYN 0x8 x y 0x4
  | .subReg x y => encodeXYN 0x8 x y 0x5
  | .shr x y => encodeXYN 0x8 x y 0x6
  | .subn x y => encodeXYN 0x8 x y 0x7
  | .shl x y => encodeXYN 0x8 x y 0xE
  | .sneReg x y => encodeXYN 0x9 x y 0x0
  | .ldI nnn => encodeNNN 0xA nnn
  | .jpV0 nnn => encodeNNN 0xB nnn
  | .rnd x kk => encodeXKK 0xC x kk
  | .drw x y n => encodeXYN 0xD x y n
  | .skp x => encodeXKK 0xE x 0x9E
  | .sknp x => encodeXKK 0xE x 0xA1
  | .ldXDt x => encodeXKK 0xF x 0x07
  | .ldXK x => encodeXKK 0xF x 0x0A
  | .ldDtX x => encodeXKK 0xF x 0x15
  | .ldStX x => encodeXKK 0xF x 0x18
  | .addI x => encodeXKK 0xF x 0x1E
  | .ldF x => encodeXKK 0xF x 0x29
  | .ldB x => encodeXKK 0xF x 0x33
  | .stRegs x => encodeXKK 0xF x 0x55
  | .ldRegs x => encodeXKK 0xF x 0x65
  | .unrecognized w => w

/-- The high byte of a word, stored at the lower address (20_memory.md R54). -/
def highByte (w : Word) : Byte := w.extractLsb' 8 8

/-- The low byte of a word, stored at the higher address (20_memory.md R54). -/
def lowByte (w : Word) : Byte := w.extractLsb' 0 8

/-- The bytes of an instruction in memory order. -/
def encodeBytes (i : Instr) : List Byte := [highByte (encode i), lowByte (encode i)]

/-- The 16 bits of an opcode-table word: bits at `nbits` and above are 0. -/
def tableWord (nbits w : Nat) : Word := BitVec.ofNat 16 (w % 2 ^ nbits)

/-- What the decoder reads from an instruction whose table word is `w`, laid out in memory order. -/
def decodeTableWord (nbits w : Nat) : Option Instr :=
  match decodeBytes [highByte (tableWord nbits w), lowByte (tableWord nbits w)] with
  | .ok (i, _) => some i
  | .error _ => none

end Sys2Proof
end

