-- ==== Sys2Proof/Config.lean ====
section
/-! DEFINITION. The parameters of the block (00_scope.md R6): what one machine fixes for its whole life, and the
environment's free values behind the schedule that `State` holds (60_exceptions.md R230, log 2 to 6). -/

namespace Sys2Proof

/-- The horizontal edge policy `H_WRAP` (41_display.md R124, D7). -/
inductive HWrap where
  /-- A sprite bit past column 63 is discarded: the source's value. -/
  | clip
  /-- Column `c` maps to `c mod 64`. -/
  | wrap
  deriving DecidableEq, Repr

/-- The parameters of 00_scope.md R6 that a model takes as arguments. -/
structure Config where
  /-- `H_WRAP`. -/
  hWrap : HWrap
  /-- `STACK_DEPTH`: `none` is unbounded, `some N` a depth N ≥ 1 (10_state.md R33, D8). -/
  stackDepth : Option Nat
  /-- `FONT`: the 80 glyph bytes, digit 0 first (70_reset_and_hazards.md R252, D19). -/
  font : Vector Byte 80
  deriving DecidableEq, Repr

/-- A finite `STACK_DEPTH` is at least 1 (00_scope.md R6). -/
def Config.wf (c : Config) : Bool := c.stackDepth != some 0

/-- PRESUMED: the conventional hexadecimal font, which 70_reset_and_hazards.md R253 marks general knowledge, not in
source (log 6). -/
def Config.defaultFont : Vector Byte 80 := #v[
  0xF0, 0x90, 0x90, 0x90, 0xF0, 0x20, 0x60, 0x20, 0x20, 0x70,
  0xF0, 0x10, 0xF0, 0x80, 0xF0, 0xF0, 0x10, 0xF0, 0x10, 0xF0,
  0x90, 0x90, 0xF0, 0x10, 0x10, 0xF0, 0x80, 0xF0, 0x10, 0xF0,
  0xF0, 0x80, 0xF0, 0x90, 0xF0, 0xF0, 0x10, 0x20, 0x40, 0x40,
  0xF0, 0x90, 0xF0, 0x90, 0xF0, 0xF0, 0x90, 0xF0, 0x10, 0xF0,
  0xF0, 0x90, 0xF0, 0x90, 0x90, 0xE0, 0x90, 0xE0, 0x90, 0xE0,
  0xF0, 0x80, 0x80, 0x80, 0xF0, 0xE0, 0x90, 0x90, 0x90, 0xE0,
  0xF0, 0x80, 0xF0, 0x80, 0xF0, 0xF0, 0x80, 0xF0, 0x80, 0x80]

/-- The defaults of 00_scope.md R6: clip, unbounded, the default font. -/
def Config.default : Config := { hWrap := .clip, stackDepth := none, font := Config.defaultFont }

/-- One event of the input poll (60_exceptions.md R230 (a)). -/
inductive InputEvent where
  /-- `KeySet(k, b)` (R234). -/
  | keySet (k : Fin 16) (b : Bool)
  /-- `KeyClearAll` (R235). -/
  | keyClearAll
  /-- `Quit` (R236). -/
  | quit
  deriving DecidableEq, Repr

/-- FREE VALUE (log 3): the random byte of iteration `n` where no schedule fixes it (00_scope.md R6 `RAND`, D18). It
has no body, so nothing can be proved of its value. -/
opaque Config.freeRand : Nat → Byte

/-- FREE VALUE (log 4): whether a tick follows the step of iteration `n` where no schedule fixes it (60_exceptions.md
R230, R232, D16). It has no body. -/
opaque Config.freeTick : Nat → Bool

/-- FREE VALUE (log 2): the events of the poll of iteration `n` where no schedule fixes them: any number of them, in any
order (60_exceptions.md R230 (a), D16). It has no body. -/
opaque Config.freePoll : Nat → List InputEvent

end Sys2Proof
end

