-- ==== Sys2Proof/Machine/State.lean ====
section
/-! DEFINITION. The state of the chip8emu CORE as plain data (10_state.md R20), the reasons it can stop, and its one
reset, creation (10_state.md R46, 70_reset_and_hazards.md R250). -/

namespace Sys2Proof.Machine

/-- The reasons of the fault state (60_exceptions.md R221). -/
inductive FaultReason where
  /-- Code 1: `00EE` on an empty call stack. -/
  | stackUnderflow
  /-- Code 2: `2nnn` on a full call stack of finite depth. -/
  | stackOverflow
  deriving DecidableEq, Repr

/-- What a fault records: the reason, the `pc` of the instruction, and its word (R221). -/
structure FaultRecord where
  reason : FaultReason
  pc     : Word
  word   : Word
  deriving DecidableEq, Repr

/-- The environment's choices for one iteration of the scheduler loop (R230): the events of its poll, the random byte
of its step, and whether a tick follows. The MODEL's own type (log 2). -/
structure IterInput where
  poll : List InputEvent
  rand : Byte
  tick : Bool
  deriving DecidableEq, Repr

/-- The composite state (10_state.md R20), the parameters of the machine (00_scope.md R6) and the environment's pending
choices. -/
structure State where
  /-- `V[0..15]` (R21). -/
  v : Vector Byte 16
  /-- The index register `I` (R24). -/
  i : Word
  /-- The program counter (R25). -/
  pc : Word
  /-- The delay timer `DT` (R27). -/
  dt : Byte
  /-- The sound timer `ST` (R28). -/
  st : Byte
  /-- The call stack, the top entry first (R33, log 13). -/
  stack : List Word
  /-- The keypad latch `key[0..15]`, true for pressed (R35). -/
  key : Vector Bool 16
  /-- `mem[0..4095]` as the cells that differ from the creation contents (R40, log 11). -/
  mem : List Host.Cell
  /-- The framebuffer `FB[0..255]` (R36). -/
  fb : Vector Byte 256
  /-- The `running` flag (R31). -/
  running : Bool
  /-- The fault state (R44). -/
  fault : Option FaultRecord
  /-- The output strobe `fb_updated` (R43). -/
  fbUpdated : Bool
  /-- The machine's parameters (00_scope.md R6, log 6). -/
  cfg : Config
  /-- The MODEL's own: the environment's choices for the coming iterations, the next one first (log 2). -/
  env : List IterInput
  /-- The MODEL's own: how many iterations have begun; the index of the free values (log 5). -/
  iter : Nat
  /-- The MODEL's own: `r`, the random byte of the current `Step(r)` (40_dispatch.md R100, log 3). -/
  rand : Byte
  /-- The MODEL's own: whether the host has made its one `Load` (70_reset_and_hazards.md R254, log 12). -/
  loaded : Bool
  deriving DecidableEq, Repr

/-- Why a step of the model stops. Both are the spec's own ends of a run (70_reset_and_hazards.md R267). -/
inductive Fault where
  /-- Raised by `step` alone, when `running` is false: "no further step occurs" (10_state.md R31). Safe: there is no
  behaviour after it. -/
  | notRunning
  /-- Raised by `step` alone, when the fault state holds a record with this reason: "no `Step` or `Tick` is enabled"
  (60_exceptions.md R222). Safe: there is no behaviour after it. -/
  | faulted (reason : FaultReason)
  deriving DecidableEq, Repr

/-- Why the model gives something no meaning. -/
inductive Refusal where
  /-- Raised by `exec`'s arm of an instruction without a meaning; no arm does. Safe. -/
  | notModelled (mnemonic : String)
  /-- Raised by `hostLoad`, and so by `boot`: a ROM longer than 3584 bytes, which would wrap past 0xFFF, is refused and
  the block is not launched (70_reset_and_hazards.md R254, D20; at another start address log 12). Safe. -/
  | romTooLong
  /-- Raised by `hostLoad`: the host makes one `Load` (R254), and this is a second one (log 12). Safe. -/
  | secondLoad
  /-- Raised by `hostLoad`: the host's one `Load` comes before the first step and never again (R254, D23). Safe. -/
  | loadAfterStart
  deriving DecidableEq, Repr

/-- Creation with given parameters: every value of 10_state.md R46. Memory lists nothing, so every address reads as its
creation contents, zero or `FONT` (log 11). The last four fields are the model's own (log 2, 3, 5, 12). -/
def State.create (cfg : Config) : State where
  v := Vector.replicate 16 0
  i := 0
  pc := 0x200
  dt := 0
  st := 0
  stack := []
  key := Vector.replicate 16 false
  mem := []
  fb := Vector.replicate 256 0
  running := true
  fault := none
  fbUpdated := false
  cfg := cfg
  env := []
  iter := 0
  rand := 0
  loaded := false

/-- The machine right after reset, with the default parameters of 00_scope.md R6. -/
def State.reset : State := State.create Config.default

end Sys2Proof.Machine
end

