-- ==== Sys2Proof/Machine/Ops.lean ====
section
/-! DEFINITION. The named operations over the state: memory (20_memory.md), registers, the call stack (10_state.md R34),
the fetch (40_dispatch.md R101), the program counter's update (R104), and taking a fault (60_exceptions.md R222), the one
kind of exception entry this machine has; it has no return from one (R225). -/

namespace Sys2Proof.Machine

/-! Memory. -/

/-- What an address nothing has written reads as: its contents after creation, `FONT` at 0x000 to 0x04F and zero
elsewhere (20_memory.md R50, R58; 70_reset_and_hazards.md R251, R252). -/
def Memory.unlisted (font : Vector Byte 80) (a : Nat) : Byte := if h : a < 80 then font[a] else 0

/-- The cell listed for an address. -/
def Memory.find (a : Nat) : List Host.Cell → Option Byte
  | [] => none
  | c :: m => if c.1 = a then some c.2 else Memory.find a m

/-- Reads one cell. -/
def Memory.read (font : Vector Byte 80) (m : List Host.Cell) (a : Nat) : Byte :=
  (Memory.find a m).getD (Memory.unlisted font a)

/-- Lists a byte at an address, in its place in the rising order. -/
def Memory.insert (a : Nat) (b : Byte) : List Host.Cell → List Host.Cell
  | [] => [(a, b)]
  | c :: m =>
    if c.1 < a then c :: Memory.insert a b m
    else if c.1 = a then (a, b) :: m
    else (a, b) :: c :: m

/-- Lists nothing at an address. -/
def Memory.erase (a : Nat) (m : List Host.Cell) : List Host.Cell := m.filter fun c => c.1 != a

/-- Writes one cell, keeping the canonical form: a byte equal to what the unlisted address reads as is not listed. -/
def Memory.write (font : Vector Byte 80) (m : List Host.Cell) (a : Nat) (b : Byte) : List Host.Cell :=
  if b = Memory.unlisted font a then Memory.erase a m else Memory.insert a b m

/-- The canonical form, from an address on: addresses strictly rising and below 4096, and no entry equal to what its
address reads as when unlisted. -/
def Memory.wfFrom (font : Vector Byte 80) : Nat → List Host.Cell → Bool
  | _, [] => true
  | lo, c :: m =>
    decide (lo ≤ c.1) && decide (c.1 < 4096) && (c.2 != Memory.unlisted font c.1) && Memory.wfFrom font (c.1 + 1) m

/-- The canonical form of memory. -/
def Memory.wf (font : Vector Byte 80) (m : List Host.Cell) : Bool := Memory.wfFrom font 0 m

/-- `MemRead(a, 1)`: the address is taken modulo 4096 (20_memory.md R51). -/
def State.memRead (s : State) (a : Nat) : Byte := Memory.read s.cfg.font s.mem (a % 4096)

/-- `MemWrite(a, 1, v)`: the address is taken modulo 4096 (20_memory.md R51). -/
def State.memWrite (s : State) (a : Nat) (b : Byte) : State :=
  { s with mem := Memory.write s.cfg.font s.mem (a % 4096) b }

/-- Writes consecutive bytes in ascending order (R67). -/
def State.memWriteBytes (s : State) (a : Nat) : List Byte → State
  | [] => s
  | b :: bs => (s.memWrite a b).memWriteBytes (a + 1) bs

/-- Reads `n` consecutive bytes in ascending order (R67). -/
def State.memReadBytes (s : State) (a n : Nat) : List Byte := (List.range n).map fun j => s.memRead (a + j)

/-! Registers (10_state.md R21: none is hardwired). -/

/-- `V[x]`. -/
def State.reg (s : State) (x : Reg) : Byte := s.v[x.toNat]'x.isLt

/-- `V[x] <- b`. -/
def State.setReg (s : State) (x : Reg) (b : Byte) : State := { s with v := s.v.set x.toNat b x.isLt }

/-- `VF <- flag`, then `V[x] <- result`: with `x = 15` the result stays (40_dispatch.md R103). -/
def State.setFlagThenReg (s : State) (flag : Byte) (x : Reg) (result : Byte) : State :=
  (s.setReg VF flag).setReg x result

/-- `V[j] <- b_j` for consecutive registers from `j` on. -/
def State.setRegs (s : State) (j : Nat) : List Byte → State
  | [] => s
  | b :: bs => (s.setReg (BitVec.ofNat 4 j) b).setRegs (j + 1) bs

/-- The values of `V[0]` to `V[x]`, inclusive. -/
def State.regsUpTo (s : State) (x : Reg) : List Byte :=
  (List.range (x.toNat + 1)).map fun j => s.reg (BitVec.ofNat 4 j)

/-! The other components, one update each. -/

/-- `I <- a` (10_state.md R24). -/
def State.setIndex (s : State) (a : Word) : State := { s with i := a }

/-- `DT <- b` (10_state.md R27). -/
def State.setDelay (s : State) (b : Byte) : State := { s with dt := b }

/-- `ST <- b` (10_state.md R28). -/
def State.setSound (s : State) (b : Byte) : State := { s with st := b }

/-- The whole framebuffer (10_state.md R36, R39). -/
def State.setFb (s : State) (fb : Vector Byte 256) : State := { s with fb := fb }

/-- The whole call stack (10_state.md R33). -/
def State.setStack (s : State) (stack : List Word) : State := { s with stack := stack }

/-! The call stack (10_state.md R34). -/

/-- `Push(v)`: raises before it changes the stack (60_exceptions.md R222). -/
def State.push (s : State) (a : Word) : Except FaultReason State :=
  if s.cfg.stackDepth = some s.stack.length then .error .stackOverflow
  else .ok (s.setStack (a :: s.stack))

/-- `Pop()`: raises before it changes the stack. -/
def State.pop (s : State) : Except FaultReason (Word × State) :=
  match s.stack with
  | [] => .error .stackUnderflow
  | a :: rest => .ok (a, s.setStack rest)

/-! The step's frame. -/

/-- The fetch: two byte reads, big-endian, at `pc` and `pc + 1` (40_dispatch.md R101, 20_memory.md R54, R55). -/
def State.fetchWord (s : State) : Word := wordOfBytes (s.memRead s.pc.toNat) (s.memRead (s.pc.toNat + 1))

/-- The outcome of an instruction for the program counter (40_dispatch.md R104). -/
inductive PcOutcome where
  | next
  | skip
  | jump (target : Word)
  | hold
  deriving DecidableEq, Repr

/-- `next_pc` (R104): modulo 65536, and a jump's target as it is (R105). -/
def nextPc (pc : Word) : PcOutcome → Word
  | .next => pc + 2
  | .skip => pc + 4
  | .jump t => t
  | .hold => pc

/-- The end of an instruction that raised nothing: `pc` by its outcome, and `fb_updated` true for `00E0` and `Dxyn`
alone (40_dispatch.md R100, R109). -/
def State.finish (s : State) (o : PcOutcome) (drew : Bool) : State :=
  { s with pc := nextPc s.pc o, fbUpdated := drew }

/-- The next state an instruction answers that raised nothing. -/
def State.retire (s : State) (o : PcOutcome) (drew : Bool) : Host.Outcome State Fault Refusal :=
  .next (s.finish o drew)

/-- Taking a fault: the fault state becomes the record of the reason, the instruction's `pc` and its word; nothing else
is written and `pc` is not updated (60_exceptions.md R221, R222); the strobe is left false (40_dispatch.md R109, log 8). -/
def State.takeFault (s : State) (reason : FaultReason) (w : Word) : State :=
  { s with fault := some { reason := reason, pc := s.pc, word := w }, fbUpdated := false }

/-- The next state an instruction answers that raised a fault. -/
def State.raise (s : State) (reason : FaultReason) (w : Word) : Host.Outcome State Fault Refusal :=
  .next (s.takeFault reason w)

/-- The number of a fault reason (60_exceptions.md R221, D26). -/
def FaultReason.code : FaultReason → Nat
  | .stackUnderflow => 1
  | .stackOverflow => 2

end Sys2Proof.Machine
end

