-- ==== Sys2Proof/Machine/Operands.lean ====
section
/-! DEFINITION. How instructions form their operands: zero extension (30_encoding.md R73), the one data addressing mode,
index plus offset (44_index_memory.md R186), and the two ways the keypad is read (45_timer_keypad.md R203, R206). -/

namespace Sys2Proof.Machine

/-- `zext_16` (00_scope.md R8): every widening of the ISA is a zero extension. -/
def zext16 {w : Nat} (b : BitVec w) : Word := b.setWidth 16

/-- The effective address `(I + j) mod 4096` (44_index_memory.md R186). -/
def State.effAddr (s : State) (j : Nat) : Nat := (s.i.toNat + j) % 4096

/-- `key[k]`, for a key number below 16. -/
def State.keyAt (s : State) (k : Nat) : Bool := (s.key[k]?).getD false

/-- `pressed(v)`: an index of 16 or more reads as not pressed (45_timer_keypad.md R206). -/
def State.pressed (s : State) (b : Byte) : Bool := decide (b.toNat < 16) && s.keyAt b.toNat

/-- The lowest-indexed pressed key, if any key is pressed (45_timer_keypad.md R203). -/
def State.lowestKey (s : State) : Option Nat := (List.range 16).find? fun k => s.keyAt k

/-- The sprite bytes `s[i] = MemRead(I + i)` of `Dxyn` (41_display.md R123). -/
def State.sprite (s : State) (n : Nibble) : List Byte := s.memReadBytes s.i.toNat n.toNat

/-- The three decimal digits of a byte: hundreds, tens, ones (44_index_memory.md R183). -/
def decimalDigits (b : Byte) : List Byte :=
  [BitVec.ofNat 8 (b.toNat / 100), BitVec.ofNat 8 (b.toNat / 10 % 10), BitVec.ofNat 8 (b.toNat % 10)]

end Sys2Proof.Machine
end

