-- ==== Sys2Proof/Machine/Display.lean ====
section
/-! DEFINITION. The XOR blitter with its collision detector, bit by bit as 41_display.md R121 writes it, the byte-level
form R128 says is equivalent, and the two display instructions `00E0` and `Dxyn`. -/

namespace Sys2Proof.Machine

/-- The framebuffer (10_state.md R36). -/
abbrev Framebuffer := Vector Byte 256

/-- Byte `j` of a framebuffer. Every `j` the blitter forms is below 256 (log 14). -/
def fbByte (fb : Framebuffer) (j : Nat) : Byte := (fb[j]?).getD 0

/-- Byte `j` of a framebuffer XORed with a mask. -/
def fbXor (fb : Framebuffer) (j : Nat) (mask : Byte) : Framebuffer := fb.setIfInBounds j (fbByte fb j ^^^ mask)

/-- The byte that holds pixel (column `c`, row `r`) (10_state.md R37). -/
def pixelByte (c r : Nat) : Nat := 8 * r + c / 8

/-- The bit of that byte (10_state.md R37). -/
def pixelBit (c : Nat) : Nat := 7 - c % 8

/-- Whether pixel (column `c`, row `r`) is lit (10_state.md R37). -/
def pixel (fb : Framebuffer) (c r : Nat) : Bool := (fbByte fb (pixelByte c r)).getLsbD (pixelBit c)

/-- Inverts pixel (column `c`, row `r`). -/
def flipPixel (fb : Framebuffer) (c r : Nat) : Framebuffer := fbXor fb (pixelByte c r) ((1 : Byte) <<< pixelBit c)

/-- Where a sprite bit at column `c` lands: past column 63 it is discarded under `clip` and taken modulo 64 under
`wrap` (41_display.md R121, R124). -/
def screenColumn (h : HWrap) (c : Nat) : Option Nat :=
  if c < 64 then some c
  else match h with
    | .clip => none
    | .wrap => some (c % 64)

/-- One sprite pixel, `b` places right of the origin column, into row `row` (R121): a 1-bit inverts its pixel, and
collides exactly when that pixel was lit (R122). -/
def blitBit (h : HWrap) (row x0 : Nat) (sb : Byte) (acc : Framebuffer × Bool) (b : Nat) : Framebuffer × Bool :=
  if sb.getLsbD (7 - b) then
    match screenColumn h (x0 + b) with
    | none => acc
    | some c => (flipPixel acc.1 c row, acc.2 || pixel acc.1 c row)
  else acc

/-- One sprite byte, its leftmost pixel first (R121). -/
def blitRow (h : HWrap) (row x0 : Nat) (sb : Byte) (acc : Framebuffer × Bool) : Framebuffer × Bool :=
  (List.range 8).foldl (blitBit h row x0 sb) acc

/-- The sprite's bytes into rows `y`, `y + 1`, … modulo 32 (R121, R125). -/
def blitRows (h : HWrap) (x0 : Nat) : Nat → List Byte → Framebuffer × Bool → Framebuffer × Bool
  | _, [], acc => acc
  | y, sb :: rest, acc => blitRows h x0 (y + 1) rest (blitRow h (y % 32) x0 sb acc)

/-- `Blit(s, x0, y0)`: the framebuffer after, and the collision (R121). -/
def blit (h : HWrap) (fb : Framebuffer) (sprite : List Byte) (x0 y0 : Nat) : Framebuffer × Bool :=
  blitRows h x0 y0 sprite (fb, false)

/-- A framebuffer byte XORed with the sprite pixels that land in it, and whether one of them was lit (R128). -/
def blitMask (j : Nat) (mask : Byte) (acc : Framebuffer × Bool) : Framebuffer × Bool :=
  (fbXor acc.1 j mask, acc.2 || (fbByte acc.1 j &&& mask != 0))

/-- The byte-level form of one sprite byte (R128): the pixels that stay in the origin's byte, then those that span into
the next one, discarded or wrapped past the right edge. -/
def blitRowBytes (h : HWrap) (row x0 : Nat) (sb : Byte) (acc : Framebuffer × Bool) : Framebuffer × Bool :=
  let c := x0 / 8
  let off := x0 % 8
  let first := blitMask (8 * row + c) (sb >>> off) acc
  let lo := sb <<< (8 - off)
  if off = 0 then first
  else match h with
    | .clip => if c ≤ 6 then blitMask (8 * row + c + 1) lo first else first
    | .wrap => blitMask (8 * row + (c + 1) % 8) lo first

/-- `00E0` (41_display.md R120). -/
def execCls (s : State) : Host.Outcome State Fault Refusal :=
  (s.setFb (Vector.replicate 256 0)).retire .next true

/-- `Dxyn` (41_display.md R123): the origin is `V[x] mod 64`, `V[y] mod 32` (R126), read before `VF` is written. -/
def execDrw (x y : Reg) (n : Nibble) (s : State) : Host.Outcome State Fault Refusal :=
  let drawn := blit s.cfg.hWrap s.fb (s.sprite n) ((s.reg x).toNat % 64) ((s.reg y).toNat % 32)
  ((s.setFb drawn.1).setReg VF (collisionFlag drawn.2)).retire .next true

end Sys2Proof.Machine
end

