-- ==== Sys2Proof/Machine/IndexMemory.lean ====
section
/-! DEFINITION. The index register and the memory transfers (44_index_memory.md). None of the transfers changes `I`
(R186). -/

namespace Sys2Proof.Machine

/-- `I <- a`, outcome Next. -/
def State.writeIndex (s : State) (a : Word) : Host.Outcome State Fault Refusal :=
  (s.setIndex a).retire .next false

/-- `Annn` (R180). -/
def execLdI (nnn : Addr12) (s : State) : Host.Outcome State Fault Refusal := s.writeIndex (zext16 nnn)

/-- `Fx1E` (R181): modulo 65536, no flag. -/
def execAddI (x : Reg) (s : State) : Host.Outcome State Fault Refusal := s.writeIndex (s.i + zext16 (s.reg x))

/-- `Fx29` (R182): `V[x]` is not masked. -/
def execLdF (x : Reg) (s : State) : Host.Outcome State Fault Refusal := s.writeIndex (zext16 (s.reg x) * 5)

/-- `Fx33` (R183): hundreds, tens, ones at `I`, `I + 1`, `I + 2`. -/
def execLdB (x : Reg) (s : State) : Host.Outcome State Fault Refusal :=
  (s.memWriteBytes s.i.toNat (decimalDigits (s.reg x))).retire .next false

/-- `Fx55` (R184): `V[0]` to `V[x]` at `I` on. -/
def execStRegs (x : Reg) (s : State) : Host.Outcome State Fault Refusal :=
  (s.memWriteBytes s.i.toNat (s.regsUpTo x)).retire .next false

/-- `Fx65` (R185): `V[0]` to `V[x]` from `I` on. -/
def execLdRegs (x : Reg) (s : State) : Host.Outcome State Fault Refusal :=
  (s.setRegs 0 (s.memReadBytes s.i.toNat (x.toNat + 1))).retire .next false

end Sys2Proof.Machine
end

