-- ==== Sys2Proof/Machine/Alu.lean ====
section
/-! DEFINITION. Register arithmetic and logic (43_alu.md): unsigned 8-bit values modulo 256 (R171). Operands are read
from the state before any write; the flag is written first, then the result (40_dispatch.md R103). -/

namespace Sys2Proof.Machine

/-- `V[x] <- result`, outcome Next, no flag (R173). -/
def State.writeReg (s : State) (x : Reg) (result : Byte) : Host.Outcome State Fault Refusal :=
  (s.setReg x result).retire .next false

/-- `VF <- flag; V[x] <- result`, outcome Next. -/
def State.writeFlagReg (s : State) (flag : Byte) (x : Reg) (result : Byte) : Host.Outcome State Fault Refusal :=
  (s.setFlagThenReg flag x result).retire .next false

/-- `6xkk` (R160). -/
def execLdImm (x : Reg) (kk : Byte) (s : State) : Host.Outcome State Fault Refusal := s.writeReg x kk

/-- `7xkk` (R161): the carry is discarded. -/
def execAddImm (x : Reg) (kk : Byte) (s : State) : Host.Outcome State Fault Refusal := s.writeReg x (s.reg x + kk)

/-- `8xy0` (R162). -/
def execLdReg (x y : Reg) (s : State) : Host.Outcome State Fault Refusal := s.writeReg x (s.reg y)

/-- `8xy1` (R163). -/
def execOrReg (x y : Reg) (s : State) : Host.Outcome State Fault Refusal := s.writeReg x (s.reg x ||| s.reg y)

/-- `8xy2` (R164). -/
def execAndReg (x y : Reg) (s : State) : Host.Outcome State Fault Refusal := s.writeReg x (s.reg x &&& s.reg y)

/-- `8xy3` (R165). -/
def execXorReg (x y : Reg) (s : State) : Host.Outcome State Fault Refusal := s.writeReg x (s.reg x ^^^ s.reg y)

/-- `8xy4` (R166). -/
def execAddReg (x y : Reg) (s : State) : Host.Outcome State Fault Refusal :=
  s.writeFlagReg (carryFlag (s.reg x) (s.reg y)) x (s.reg x + s.reg y)

/-- `8xy5` (R167). -/
def execSubReg (x y : Reg) (s : State) : Host.Outcome State Fault Refusal :=
  s.writeFlagReg (greaterFlag (s.reg x) (s.reg y)) x (s.reg x - s.reg y)

/-- `8xy6` (R168): `y` is not used. -/
def execShr (x _y : Reg) (s : State) : Host.Outcome State Fault Refusal :=
  s.writeFlagReg (shiftRightFlag (s.reg x)) x (s.reg x >>> 1)

/-- `8xy7` (R169). -/
def execSubn (x y : Reg) (s : State) : Host.Outcome State Fault Refusal :=
  s.writeFlagReg (greaterFlag (s.reg y) (s.reg x)) x (s.reg y - s.reg x)

/-- `8xyE` (R170): `y` is not used. -/
def execShl (x _y : Reg) (s : State) : Host.Outcome State Fault Refusal :=
  s.writeFlagReg (shiftLeftFlag (s.reg x)) x (s.reg x <<< 1)

/-- `Cxkk` (R172): `r & kk`, with `r` the random byte of this step (log 3). -/
def execRnd (x : Reg) (kk : Byte) (s : State) : Host.Outcome State Fault Refusal := s.writeReg x (s.rand &&& kk)

end Sys2Proof.Machine
end

