-- ==== Sys2Proof/Machine/Flow.lean ====
section
/-! DEFINITION. Control transfer and the register skips (42_flow.md), and the no-op of every unrecognized word
(40_dispatch.md R108). -/

namespace Sys2Proof.Machine

/-- `00EE` (42_flow.md R140): the popped value is the target as it is; an empty stack raises `StackUnderflow`. -/
def execRet (s : State) : Host.Outcome State Fault Refusal :=
  match s.pop with
  | .ok (t, s') => s'.retire (.jump t) false
  | .error r => s.raise r (encode .ret)

/-- `1nnn` (42_flow.md R141). -/
def execJp (nnn : Addr12) (s : State) : Host.Outcome State Fault Refusal := s.retire (.jump (zext16 nnn)) false

/-- `2nnn` (42_flow.md R143): pushes the address of the next instruction; a full finite stack raises `StackOverflow`. -/
def execCall (nnn : Addr12) (s : State) : Host.Outcome State Fault Refusal :=
  match s.push (s.pc + 2) with
  | .ok s' => s'.retire (.jump (zext16 nnn)) false
  | .error r => s.raise r (encode (.call nnn))

/-- `Bnnn` (42_flow.md R144). -/
def execJpV0 (nnn : Addr12) (s : State) : Host.Outcome State Fault Refusal :=
  s.retire (.jump (zext16 nnn + zext16 (s.reg V0))) false

/-- "Skip next instruction" when a condition holds (40_dispatch.md R106). -/
def State.skipIf (s : State) (cond : Bool) : Host.Outcome State Fault Refusal :=
  s.retire (if cond then .skip else .next) false

/-- `3xkk` (42_flow.md R146). -/
def execSeImm (x : Reg) (kk : Byte) (s : State) : Host.Outcome State Fault Refusal := s.skipIf (s.reg x == kk)

/-- `4xkk` (42_flow.md R147). -/
def execSneImm (x : Reg) (kk : Byte) (s : State) : Host.Outcome State Fault Refusal := s.skipIf (s.reg x != kk)

/-- `5xy0` (42_flow.md R148). -/
def execSeReg (x y : Reg) (s : State) : Host.Outcome State Fault Refusal := s.skipIf (s.reg x == s.reg y)

/-- `9xy0` (42_flow.md R149). -/
def execSneReg (x y : Reg) (s : State) : Host.Outcome State Fault Refusal := s.skipIf (s.reg x != s.reg y)

/-- The default row (40_dispatch.md R108): no state is written, and the outcome is Next; the word has no effect. -/
def execUnrecognized (_w : Word) (s : State) : Host.Outcome State Fault Refusal := s.retire .next false

end Sys2Proof.Machine
end

