-- ==== Sys2Proof/Machine/KeypadTimer.lean ====
section
/-! DEFINITION. The keypad and timer instructions (45_timer_keypad.md). The latch does not change during a step. -/

namespace Sys2Proof.Machine

/-- `Ex9E` (R200). -/
def execSkp (x : Reg) (s : State) : Host.Outcome State Fault Refusal := s.skipIf (s.pressed (s.reg x))

/-- `ExA1` (R201). -/
def execSknp (x : Reg) (s : State) : Host.Outcome State Fault Refusal := s.skipIf (!s.pressed (s.reg x))

/-- `Fx07` (R202). -/
def execLdXDt (x : Reg) (s : State) : Host.Outcome State Fault Refusal := s.writeReg x s.dt

/-- `Fx0A` (R203): with no key pressed the step holds `pc` and writes nothing (40_dispatch.md R107). -/
def execLdXK (x : Reg) (s : State) : Host.Outcome State Fault Refusal :=
  match s.lowestKey with
  | none => s.retire .hold false
  | some k => s.writeReg x (BitVec.ofNat 8 k)

/-- `Fx15` (R204). -/
def execLdDtX (x : Reg) (s : State) : Host.Outcome State Fault Refusal :=
  (s.setDelay (s.reg x)).retire .next false

/-- `Fx18` (R205). -/
def execLdStX (x : Reg) (s : State) : Host.Outcome State Fault Refusal :=
  (s.setSound (s.reg x)).retire .next false

end Sys2Proof.Machine
end

