-- ==== Sys2Proof/Machine/Scheduler.lean ====
section
/-! DEFINITION. The transactions of the block's interface besides `Step` (10_state.md R45) and the scheduler iteration
(60_exceptions.md R230): the input poll, the running check, `Step(r)`, the tick; the outputs, the load and the boot. -/

namespace Sys2Proof.Machine

/-! The input poll. -/

/-- `KeySet(k, b)` (R234). -/
def State.keySet (s : State) (k : Fin 16) (b : Bool) : State := { s with key := s.key.set k.val b k.isLt }

/-- `KeyClearAll` (R235). -/
def State.keyClearAll (s : State) : State := { s with key := Vector.replicate 16 false }

/-- `Quit` (R236). -/
def State.quit (s : State) : State := { s with running := false }

/-- One event of the poll. -/
def State.applyEvent (s : State) : InputEvent → State
  | .keySet k b => s.keySet k b
  | .keyClearAll => s.keyClearAll
  | .quit => s.quit

/-- The events of one poll, in their order (R230 (a)). -/
def State.applyPoll (s : State) (events : List InputEvent) : State := events.foldl State.applyEvent s

/-! The timers. -/

/-- One timer at the end of an iteration: a timer at 0 stays at 0, and a tick takes 1 from any other (R231,
10_state.md R29). -/
def decayTimer (tick : Bool) (t : Byte) : Byte := if t = 0 then 0 else if tick then t - 1 else t

/-- The tick or its absence: both timers, independently, and nothing else (R231). -/
def State.decay (s : State) (tick : Bool) : State :=
  { s with dt := decayTimer tick s.dt, st := decayTimer tick s.st }

/-- `Tick` (R231). -/
def State.tick (s : State) : State := s.decay true

/-! The iteration. -/

/-- The environment's choices for the coming iteration: the head of the schedule; past its end the events of the poll, the
random byte and the tick are free values of Config (log 2, 3, 4). -/
def State.nextInput (s : State) : IterInput :=
  match s.env with
  | e :: _ => e
  | [] => { poll := Config.freePoll s.iter, rand := Config.freeRand s.iter, tick := Config.freeTick s.iter }

/-- Parts (a) of an iteration: the choices are taken from the schedule, the poll's events are applied, and the step's
random byte is drawn (R230, 40_dispatch.md R100). -/
def State.beginIteration (s : State) : State :=
  State.applyPoll { s with env := s.env.tail, iter := s.iter + 1, rand := s.nextInput.rand } s.nextInput.poll

/-- Part (e) of an iteration: the tick, if one comes. After a fault none is enabled (60_exceptions.md R222, log 10). -/
def State.endIteration (s : State) (tick : Bool) : State :=
  match s.fault with
  | none => s.decay tick
  | some _ => s

/-- `Step(r)` on a state whose poll is done: fetch, decode, execute (40_dispatch.md R100). -/
def State.stepInstr (s : State) : Host.Outcome State Fault Refusal := exec (decode s.fetchWord) s

/-- The rest of an iteration once its poll is done (R230 (b) to (e)): nothing when `running` is false, else the
instruction and the tick. -/
def State.afterPoll (s : State) (tick : Bool) : Host.Outcome State Fault Refusal :=
  match s.running with
  | false => .next s
  | true =>
    match s.stepInstr with
    | .next t => .next (t.endIteration tick)
    | .fault r => .fault r
    | .refused r => .refused r

/-- One iteration of the loop. It is enabled while `running` is true and the fault state is `none` (40_dispatch.md
R100); a loop that has ended has no further step (70_reset_and_hazards.md R267). -/
def State.iteration (s : State) : Host.Outcome State Fault Refusal :=
  match s.fault with
  | some f => .fault (.faulted f.reason)
  | none =>
    match s.running with
    | false => .fault .notRunning
    | true => s.beginIteration.afterPoll s.nextInput.tick

/-- The schedule with the coming poll empty and the other choices as they were: a poll with a `Quit` would end the loop
before the fetch (R236, log 19). -/
def State.quietPoll (s : State) : List IterInput := { s.nextInput with poll := [] } :: s.env.tail

/-! The outputs and the host's read. -/

/-- `sound`: true while the sound timer runs (60_exceptions.md R233). -/
def State.sound (s : State) : Bool := s.st != 0

/-- `FbRead`: the 256 bytes (41_display.md R130). -/
def State.fbRead (s : State) : Vector Byte 256 := s.fb

/-! Loading and boot. -/

/-- The start address of a ROM (00_scope.md R6 `ROM_BASE`). -/
def romBase : Nat := 0x200

/-- The longest ROM, 0x200 to 0xFFF (00_scope.md R6 `ROM_MAX`, D20). -/
def romMax : Nat := 3584

/-- The host has made its one `Load`. -/
def State.markLoaded (s : State) : State := { s with loaded := true }

/-- `Load(a, bytes)`: one memory load, before the first step and never after (70_reset_and_hazards.md R254). Bytes that
would run past 0xFFF are refused: at `romBase` these are the ROMs longer than `romMax` (R254, D20); at another start
address, for which the spec states no limit, that is the model's choice (log 12). -/
def hostLoad (a : Nat) (bytes : List Byte) (s : State) : Host.Outcome State Fault Refusal :=
  if s.iter ≠ 0 then .refused .loadAfterStart
  else if s.loaded then .refused .secondLoad
  else if romBase + romMax < a + bytes.length then .refused .romTooLong
  else .next (s.memWriteBytes a bytes).markLoaded

/-- Creation, then `Load(0x200, rom)` (70_reset_and_hazards.md R251, R254). -/
def boot (cfg : Config) (rom : List Byte) : Host.Outcome State Fault Refusal :=
  hostLoad romBase rom (State.create cfg)

end Sys2Proof.Machine
end

