-- ==== Sys2Proof/Machine/Step.lean ====
section
/-! DEFINITION. One step of the model is one iteration of the scheduler loop (60_exceptions.md R230, log 1): input poll,
running check, one instruction, zero or one tick. -/

namespace Sys2Proof.Machine

/-- One step. -/
def step (s : State) : Host.Outcome State Fault Refusal := s.iteration

/-- The state with the instruction of table word `w` where the next step fetches, big-endian at `pc` and `pc + 1`, and
with all that this fetch needs: the loop enabled and a coming poll without events (log 19). -/
def State.withFetchWord (s : State) (nbits w : Nat) : State :=
  let t := s.memWriteBytes s.pc.toNat [highByte (tableWord nbits w), lowByte (tableWord nbits w)]
  { t with running := true, fault := none, env := t.quietPoll }

end Sys2Proof.Machine
end

