-- ==== Sys2Proof/Safety.lean ====
section
/-! DEFINITION. The terms claims are stated in: when a step is enabled, the invariant every step keeps, the footprint of
an instruction (what it may change), the registers it writes, what the next fetch sees of a store, and which pixels a
sprite covers. -/

namespace Sys2Proof.Machine

/-- `Step` is enabled: `running` is true and the fault state is `none` (40_dispatch.md R100). -/
def State.enabled (s : State) : Bool := s.running && s.fault.isNone

/-- The stack holds at most `STACK_DEPTH` entries (10_state.md R34). -/
def State.stackFits (s : State) : Bool :=
  match s.cfg.stackDepth with
  | none => true
  | some n => decide (s.stack.length ≤ n)

/-- A fault record tells the truth about the state it stopped in (60_exceptions.md R221, R222): the `pc` and the word of
the instruction, which are still there, and the condition that raised it. -/
def FaultRecord.precise (f : FaultRecord) (s : State) : Bool :=
  (f.pc == s.pc) && (f.word == s.fetchWord) &&
    match f.reason with
    | .stackUnderflow => (f.word == 0x00EE) && s.stack.isEmpty
    | .stackOverflow => (opField f.word == 2) && (s.cfg.stackDepth == some s.stack.length)

/-- The invariant of the machine: memory in its canonical form, legal parameters, a stack within its depth, and a
precise fault state. -/
abbrev State.Inv (s : State) : Prop :=
  Memory.wf s.cfg.font s.mem = true ∧ s.cfg.wf = true ∧ s.stackFits = true ∧
    s.fault.all (fun f => f.precise s) = true

/-- What an instruction may change, beside `pc` and `fb_updated`: registers, memory addresses (modulo 4096), and whole
components. -/
structure Footprint where
  regs    : List Reg := []
  stored  : List Nat := []
  index   : Bool := false
  delay   : Bool := false
  sound   : Bool := false
  stack   : Bool := false
  display : Bool := false

/-- Everything outside the footprint is the same before and after: every register, every byte of memory, every other
component, and in any case the keypad latch, `running`, the fault state, the parameters and the environment's choices. -/
def Footprint.Keeps (f : Footprint) (s t : State) : Prop :=
  (∀ r, r ∉ f.regs → t.reg r = s.reg r) ∧
  (∀ a, a % 4096 ∉ f.stored → t.memRead a = s.memRead a) ∧
  (f.index = false → t.i = s.i) ∧
  (f.delay = false → t.dt = s.dt) ∧
  (f.sound = false → t.st = s.st) ∧
  (f.stack = false → t.stack = s.stack) ∧
  (f.display = false → t.fb = s.fb) ∧
  t.key = s.key ∧ t.running = s.running ∧ t.fault = s.fault ∧ t.cfg = s.cfg ∧
  t.env = s.env ∧ t.iter = s.iter ∧ t.rand = s.rand ∧ t.loaded = s.loaded

/-- The registers an instruction may write, by the table of 10_state.md R21: the destination, `VF` as a flag, or both. -/
def regsWritten : Instr → List Reg
  | .ldImm x _ | .addImm x _ | .ldReg x _ | .orReg x _ | .andReg x _ | .xorReg x _ | .rnd x _ => [x]
  | .ldXDt x | .ldXK x => [x]
  | .addReg x _ | .subReg x _ | .shr x _ | .subn x _ | .shl x _ => [x, VF]
  | .drw _ _ _ => [VF]
  | .ldRegs x => (List.range (x.toNat + 1)).map (BitVec.ofNat 4)
  | .cls | .ret | .jp _ | .call _ | .jpV0 _ | .seImm _ _ | .sneImm _ _ | .seReg _ _ | .sneReg _ _ => []
  | .ldI _ | .addI _ | .ldF _ | .ldB _ | .stRegs _ | .skp _ | .sknp _ | .ldDtX _ | .ldStX _ | .unrecognized _ => []

/-- Byte `k` of a fetched word in memory order (20_memory.md R54): the high byte for 0, the low byte otherwise. -/
def fetchedByte (w : Word) (k : Nat) : Nat := if k = 0 then w.toNat / 256 else w.toNat % 256

/-- After a transfer that stores the bytes `stored` from `I` on and goes on to the next word: each byte of the word that
`t` fetches, and fetches still after the coming poll, is the stored byte where the transfer covers its address, and the
byte `s` had there elsewhere (20_memory.md R65). -/
def FetchSeesStored (s t : State) (stored : List Nat) : Prop :=
  t.beginIteration.fetchWord = t.fetchWord ∧
  ∀ k, k < 2 →
    (∀ j v, stored[j]? = some v → (s.pc.toNat + 2 + k) % 4096 = s.effAddr j → fetchedByte t.fetchWord k = v) ∧
    ((∀ j, j < stored.length → (s.pc.toNat + 2 + k) % 4096 ≠ s.effAddr j) →
      fetchedByte t.fetchWord k = (s.memRead (s.pc.toNat + 2 + k)).toNat)

/-- The sprite byte string `sprite`, drawn with its origin at (x0, y0), has a 1-bit that lands on pixel (column c,
row r) (41_display.md R121): sprite byte i goes to row (y0 + i) mod 32, its bit 7 - b to column x0 + b, which past
column 63 is discarded under `clip` and taken modulo 64 under `wrap` (R124, R125). -/
def SpriteCovers (h : HWrap) (sprite : List Byte) (x0 y0 c r : Nat) : Prop :=
  ∃ i b, ∃ hi : i < sprite.length, b < 8 ∧ (sprite[i]).getLsbD (7 - b) = true ∧ r = (y0 + i) % 32 ∧
    ((x0 + b < 64 ∧ c = x0 + b) ∨ (64 ≤ x0 + b ∧ h = .wrap ∧ c = (x0 + b) % 64))

/-- Instructions executed one after another, whatever `pc` holds: the instructions of a run without its fetches. -/
def execAll : List Instr → State → Host.Outcome State Fault Refusal
  | [], s => .next s
  | i :: rest, s =>
    match exec i s with
    | .next t => execAll rest t
    | .fault r => .fault r
    | .refused r => .refused r

/-- A sequence of executed instructions in which every return matches an earlier call (42_flow.md R145). -/
inductive Balanced : List Instr → Prop where
  | nil : Balanced []
  | other {i : Instr} {rest : List Instr} (hret : i ≠ .ret) (hcall : ∀ nnn, i ≠ .call nnn) (h : Balanced rest) :
      Balanced (i :: rest)
  | call {nnn : Addr12} {body rest : List Instr} (hb : Balanced body) (hr : Balanced rest) :
      Balanced (.call nnn :: (body ++ .ret :: rest))

end Sys2Proof.Machine
end

