-- ==== Sys2Proof/Certificates/Slice0/Obligations.lean ====
section
/-! DEFINITION. The statements about the model, each with the rule of spec/ it comes from. A statement about an
instruction concludes that `exec` answers a next state, says what that state holds, and, by `Footprint.Keeps`, that
everything else is as before. -/

open Sys2Proof Sys2Proof.Machine

/-! Encoding (30_encoding.md). -/

/-- Decoding an encoded well-formed instruction gives it back, every operand at every value (R72, R73). -/
def Obligations.DecodeInvertsEncode : Prop :=
  ∀ i : Instr, i.wf = true → decode (encode i) = i

/-- Encoding a decoded word gives it back, and what is decoded is well formed: each word has one meaning (R83). -/
def Obligations.EncodeInvertsDecode : Prop :=
  ∀ w : Word, encode (decode w) = w ∧ (decode w).wf = true

/-- R83: a word matches exactly one row of the opcode table: the row of what it decodes to, no other instruction
row, and the default row exactly when no instruction row matches. R83 is marked [derived] from R74. -/
def Obligations.EveryWordMatchesExactlyOneRow : Prop :=
  ∀ w : Word,
    (decode w).row.covers w = true ∧
    (∀ r ∈ opcodeRows, r.covers w = true → r = (decode w).row) ∧
    (decode w = .unrecognized w ↔ ∀ r ∈ opcodeRows, r.covers w = false)

/-- R80: the unrecognized words are exactly those of its six sets, and there are 21582 of them. -/
def Obligations.UnrecognizedWordsAreTheSixSets : Prop :=
  (∀ w : Word, decode w = .unrecognized w ↔
    ((opField w = 0x0 ∧ w ≠ 0x00E0 ∧ w ≠ 0x00EE) ∨
     (opField w = 0x5 ∧ nField w ≠ 0) ∨
     (opField w = 0x8 ∧ nField w ∈ [0x8, 0x9, 0xA, 0xB, 0xC, 0xD, 0xF]) ∨
     (opField w = 0x9 ∧ nField w ≠ 0) ∨
     (opField w = 0xE ∧ kkField w ∉ [0x9E, 0xA1]) ∨
     (opField w = 0xF ∧ kkField w ∉ [0x07, 0x0A, 0x15, 0x18, 0x1E, 0x29, 0x33, 0x55, 0x65]))) ∧
  (List.range 65536).countP (fun k => decide (decode (BitVec.ofNat 16 k) = .unrecognized (BitVec.ofNat 16 k))) = 21582

/-- Words written out from the encoding tables (R72 to R79) decode to the instructions they stand for. -/
def Obligations.SampleWordsDecode : Prop :=
  decode 0b0000000011100000 = .cls ∧
  decode 0b0010001100000000 = .call 0x300 ∧
  decode 0b0101001000110000 = .seReg 2 3 ∧
  decode 0b0111000000001010 = .addImm 0 10 ∧
  decode 0b1000111100010100 = .addReg 15 1 ∧
  decode 0b1101000000010010 = .drw 0 1 2 ∧
  decode 0b1110010110011110 = .skp 5 ∧
  decode 0b1111001001100101 = .ldRegs 2 ∧
  decode 0b1001001000110001 = .unrecognized 0x9231

/-! The step and the loop (40_dispatch.md, 60_exceptions.md). -/

/-- A step runs the decoded instruction (40_dispatch.md R100 to R102, 60_exceptions.md R230): when the loop is
enabled, the poll leaves it running, and the two bytes at `pc` make a word that decodes to `i`, the step is `exec i`
on the state after the poll, followed by the end of the iteration. That one step is one iteration is log 1, after
D16. -/
def Obligations.StepRunsDecodedInstruction : Prop :=
  ∀ (s : State) (i : Instr) (hi lo : Byte),
    s.enabled = true → s.beginIteration.running = true →
    s.memRead s.pc.toNat = hi → s.memRead (s.pc.toNat + 1) = lo → decode (wordOfBytes hi lo) = i →
    step s = (match exec i s.beginIteration with
              | .next t => .next (t.endIteration s.nextInput.tick)
              | .fault r => .fault r
              | .refused r => .refused r)

/-- What surrounds the instruction in an iteration (60_exceptions.md R230, R231, R236): its choices are the head of the
schedule, and past the schedule the free values; its poll leaves the latch that the events of the poll make, keeps
`running` exactly when no event is `Quit`, and touches no other component of the machine; the step's random byte is the
one chosen. After the instruction a chosen tick is `Tick`, no tick changes nothing, and after a fault nothing changes.
The order of an iteration is D16; the schedule is the model's own (log 1, 2), a fault's iteration is log 10. -/
def Obligations.IterationPartsTouchOnlyTheirOwn : Prop :=
  ∀ s : State,
    (∀ e rest, s.env = e :: rest → s.nextInput = e) ∧
    (s.env = [] → s.nextInput =
      { poll := Config.freePoll s.iter, rand := Config.freeRand s.iter, tick := Config.freeTick s.iter }) ∧
    (∃ b : Bool,
      s.beginIteration = { s with key := (s.applyPoll s.nextInput.poll).key, running := b, env := s.env.tail,
                                  iter := s.iter + 1, rand := s.nextInput.rand } ∧
      (b = true ↔ s.running = true ∧ InputEvent.quit ∉ s.nextInput.poll)) ∧
    (s.fault = none → s.endIteration true = s.tick ∧ s.endIteration false = s) ∧
    (s.fault ≠ none → ∀ tick, s.endIteration tick = s)

/-- R100, R267: a step answers a next state exactly when the loop is enabled, that is, while `running` is true and
the fault state is `none`. That a loop that has ended answers a fault is the model's form (log 7, 9); the end itself
is D27. -/
def Obligations.StepAnswersNextExactlyWhenEnabled : Prop :=
  ∀ s : State, (∃ t, step s = .next t) ↔ (s.running = true ∧ s.fault = none)

/-- R236: `Quit` in the poll clears `running`; the step of that iteration does not run (nothing but the latch and
the model's own fields changes), and no step follows. That the iteration itself still answers a next state is the
model's form (log 9). -/
def Obligations.QuitEndsTheLoopBeforeTheStep : Prop :=
  ∀ s : State, s.enabled = true → InputEvent.quit ∈ s.nextInput.poll →
    ∃ t, step s = .next t ∧ t.running = false ∧
      t.v = s.v ∧ t.i = s.i ∧ t.pc = s.pc ∧ t.dt = s.dt ∧ t.st = s.st ∧ t.stack = s.stack ∧ t.mem = s.mem ∧
      t.fb = s.fb ∧ t.fault = s.fault ∧ t.fbUpdated = s.fbUpdated ∧ t.cfg = s.cfg ∧
      ∀ u, step t ≠ .next u

/-- R54, R55: the fetched word is the byte at `pc` above the byte at `pc + 1`, and at 0xFFF the low byte comes from
address 0. R55 is marked [derived] from R51 and R54. -/
def Obligations.FetchIsBigEndianAndWraps : Prop :=
  ∀ s : State,
    s.fetchWord.toNat = (s.memRead s.pc.toNat).toNat * 256 + (s.memRead (s.pc.toNat + 1)).toNat ∧
    (s.pc.toNat % 4096 = 0xFFF →
      s.fetchWord.toNat = (s.memRead 0xFFF).toNat * 256 + (s.memRead 0).toNat)

/-- 30_encoding.md R81: every instruction, the default row included, has a defined action: `exec` answers a next
state on every state. That a fault is a next state holding its record is the model's form (log 7). -/
def Obligations.EveryInstructionAnswersNext : Prop :=
  ∀ (i : Instr) (s : State), ∃ t, exec i s = .next t

/-- R109: `fb_updated` is true after the step exactly when it executed `00E0` or `Dxyn`, also when the step faults.
The strobe is D21; its value at a faulting step is log 8. -/
def Obligations.FbUpdatedMarksDraws : Prop :=
  ∀ (i : Instr) (s t : State), exec i s = .next t →
    (t.fbUpdated = true ↔ i = .cls ∨ ∃ x y n, i = .drw x y n)

/-! Faults (60_exceptions.md). -/

/-- R221, R223: an instruction raises at most one fault: `00EE` only StackUnderflow (code 1), on an empty stack, and
`2nnn` only StackOverflow (code 2), on a stack of the finite depth; the record holds the reason, `pc` and the word.
The faults are D8, D9 and D26; R223 is marked [derived]. -/
def Obligations.OnlyRetAndCallRaise : Prop :=
  FaultReason.stackUnderflow.code = 1 ∧ FaultReason.stackOverflow.code = 2 ∧
  ∀ (i : Instr) (s t : State), exec i s = .next t →
    t.fault = s.fault ∨
    (i = .ret ∧ s.stack = [] ∧
      t.fault = some { reason := .stackUnderflow, pc := s.pc, word := 0x00EE }) ∨
    (∃ nnn, i = .call nnn ∧ s.cfg.stackDepth = some s.stack.length ∧
      t.fault = some { reason := .stackOverflow, pc := s.pc, word := encode (.call nnn) })

/-- R140, R222: `00EE` on an empty stack sets the fault record and writes nothing else; `pc` is not updated, the
strobe is left false (40_dispatch.md R109), and neither a tick nor a step follows. The fault is D9; that it is a
next state is log 7, the strobe log 8, the tick log 10. -/
def Obligations.RetOnEmptyStackFaults : Prop :=
  ∀ s : State, s.stack = [] →
    ∃ t, exec .ret s = .next t ∧
      t = { s with fault := some { reason := .stackUnderflow, pc := s.pc, word := 0x00EE }, fbUpdated := false } ∧
      (∀ tick, t.endIteration tick = t) ∧ (∀ u, step t ≠ .next u)

/-- R143, R222: `2nnn` on a full stack of finite depth sets the fault record and writes nothing else; neither a tick
nor a step follows. The fault is D8; that it is a next state is log 7, the strobe log 8, the tick log 10. -/
def Obligations.CallOnFullStackFaults : Prop :=
  ∀ (nnn : Addr12) (s : State), s.cfg.stackDepth = some s.stack.length →
    ∃ t, exec (.call nnn) s = .next t ∧
      t = { s with fault := some { reason := .stackOverflow, pc := s.pc, word := encode (.call nnn) },
                   fbUpdated := false } ∧
      (∀ tick, t.endIteration tick = t) ∧ (∀ u, step t ≠ .next u)

/-! Invariants and whole-machine rules. -/

/-- Every step keeps the invariant: memory in its canonical form, legal parameters, a stack within its depth (10_state.md
R34), and a precise fault record (60_exceptions.md R222). -/
def Obligations.StepKeepsInvariant : Prop :=
  ∀ s t : State, s.Inv → step s = .next t → t.Inv

/-- The invariant holds of a machine created with any legal parameters, and so right after reset. -/
def Obligations.CreationMeetsInvariant : Prop :=
  (∀ cfg : Config, cfg.wf = true → (State.create cfg).Inv) ∧ State.reset.Inv

/-- Which instructions may change which component (10_state.md R21, R29, R33, R39, R42; 44_index_memory.md R186): a
register only an instruction that writes it by R21's table, the stack only `2nnn` and `00EE`, the framebuffer only `00E0`
and `Dxyn`, `I` only `Annn`, `Fx1E` and `Fx29`, DT only `Fx15`, ST only `Fx18`, memory only `Fx33` and `Fx55`. R42 is
marked [derived]. -/
def Obligations.EachComponentHasItsWriters : Prop :=
  ∀ (i : Instr) (s t : State), exec i s = .next t →
    (∀ r, t.reg r ≠ s.reg r → r ∈ regsWritten i) ∧
    (t.stack ≠ s.stack → i = .ret ∨ ∃ nnn, i = .call nnn) ∧
    (t.fb ≠ s.fb → i = .cls ∨ ∃ x y n, i = .drw x y n) ∧
    (t.i ≠ s.i → (∃ nnn, i = .ldI nnn) ∨ (∃ x, i = .addI x) ∨ (∃ x, i = .ldF x)) ∧
    (t.dt ≠ s.dt → ∃ x, i = .ldDtX x) ∧
    (t.st ≠ s.st → ∃ x, i = .ldStX x) ∧
    ((∃ a, t.memRead a ≠ s.memRead a) → (∃ x, i = .ldB x) ∨ (∃ x, i = .stRegs x))

/-- No instruction writes the keypad latch (10_state.md R35), `running` (R31) or the parameters, and none of the
environment's choices. -/
def Obligations.HostStateIsNotWrittenByInstructions : Prop :=
  ∀ (i : Instr) (s t : State), exec i s = .next t →
    t.key = s.key ∧ t.running = s.running ∧ t.cfg = s.cfg ∧ t.env = s.env ∧ t.iter = s.iter ∧ t.rand = s.rand ∧
    t.loaded = s.loaded

/-- 40_dispatch.md R112: only `Cxkk` reads the random byte: for any other instruction another byte gives the same
result with that byte in its place. R112 is marked [derived]; the field that holds the byte is log 3. -/
def Obligations.OnlyRndReadsTheRandomByte : Prop :=
  ∀ (i : Instr) (s t : State) (r : Byte), (∀ x kk, i ≠ .rnd x kk) → exec i s = .next t →
    exec i { s with rand := r } = .next { t with rand := r }

/-- 10_state.md R28: no instruction reads ST: with another value in it, every instruction but `Fx18` (which writes it)
gives the same result with that value in its place. -/
def Obligations.NoInstructionReadsSoundTimer : Prop :=
  ∀ (i : Instr) (s t : State) (b : Byte), (∀ x, i ≠ .ldStX x) → exec i s = .next t →
    exec i { s with st := b } = .next { t with st := b }

/-- 20_memory.md R56: from an even `pc`, with only even return addresses on the stack, only `1nnn` and `2nnn` with
an odd `nnn` and `Bnnn` with an odd sum can make `pc` odd, and every instruction leaves only even return addresses.
R56's sentence is marked [derived]. -/
def Obligations.OnlyOddTargetsMakePcOdd : Prop :=
  ∀ (i : Instr) (s t : State), s.pc.toNat % 2 = 0 → (∀ a ∈ s.stack, a.toNat % 2 = 0) → exec i s = .next t →
    (∀ a ∈ t.stack, a.toNat % 2 = 0) ∧
    (t.pc.toNat % 2 = 1 →
      (∃ nnn, (i = .jp nnn ∨ i = .call nnn) ∧ nnn.toNat % 2 = 1) ∨
      (∃ nnn, i = .jpV0 nnn ∧ (nnn.toNat + (s.reg V0).toNat) % 2 = 1))

/-- 43_alu.md R173: the logic operations, the copy, the immediate forms and `Cxkk` change `VF` only when `x = 15`
names it as the destination. R173 is marked [derived]. -/
def Obligations.PlainFormsLeaveTheFlag : Prop :=
  ∀ (x y : Reg) (kk : Byte) (s : State) (i : Instr),
    i ∈ [.orReg x y, .andReg x y, .xorReg x y, .ldReg x y, .ldImm x kk, .addImm x kk, .rnd x kk] → x ≠ VF →
    ∃ t, exec i s = .next t ∧ t.reg VF = s.reg VF

/-- 10_state.md R22: after a flag-producing instruction `VF` is exactly 0 or 1, where `VF` is not itself the result's
destination; after `Dxyn` always. -/
def Obligations.FlagIsZeroOrOne : Prop :=
  ∀ (x y : Reg) (n : Nibble) (s : State) (i : Instr),
    (i = .drw x y n ∨
      (x ≠ VF ∧ i ∈ [.addReg x y, .subReg x y, .shr x y, .subn x y, .shl x y])) →
    ∃ t, exec i s = .next t ∧ (t.reg VF = 0 ∨ t.reg VF = 1)

/-! Display (41_display.md). -/

/-- R120: `00E0` sets all 256 bytes to zero; `VF` and memory are as before; `fb_updated` is true. -/
def Obligations.ClsClearsTheFramebuffer : Prop :=
  ∀ s : State, ∃ t, exec .cls s = .next t ∧
    (∀ j, j < 256 → fbByte t.fb j = 0) ∧ t.pc = s.pc + 2 ∧ t.fbUpdated = true ∧
    Footprint.Keeps { display := true } s t

/-- R121 to R127: `Dxyn` inverts exactly the pixels its sprite covers, with the origin at (V[x] mod 64, V[y] mod 32)
and the sprite at `I`; `VF` becomes 1 when a covered pixel was lit and 0 otherwise; it advances `pc` by 2, sets
`fb_updated` and changes nothing else. The origin modulo 64 is D5, n = 0 is D6, the edge policy is D7. R121's loop
is marked [derived]. -/
def Obligations.DrwInvertsCoveredPixels : Prop :=
  ∀ (x y : Reg) (n : Nibble) (s : State),
    ∃ (t : State) (sprite : List Byte),
      exec (.drw x y n) s = .next t ∧
      sprite.length = n.toNat ∧ (∀ i, (h : i < sprite.length) → sprite[i] = s.memRead (s.i.toNat + i)) ∧
      (∀ c r, c < 64 → r < 32 →
        (SpriteCovers s.cfg.hWrap sprite ((s.reg x).toNat % 64) ((s.reg y).toNat % 32) c r →
          pixel t.fb c r = !pixel s.fb c r) ∧
        (¬ SpriteCovers s.cfg.hWrap sprite ((s.reg x).toNat % 64) ((s.reg y).toNat % 32) c r →
          pixel t.fb c r = pixel s.fb c r)) ∧
      ((∃ c r, SpriteCovers s.cfg.hWrap sprite ((s.reg x).toNat % 64) ((s.reg y).toNat % 32) c r ∧
          pixel s.fb c r = true) → t.reg VF = 1) ∧
      ((¬ ∃ c r, SpriteCovers s.cfg.hWrap sprite ((s.reg x).toNat % 64) ((s.reg y).toNat % 32) c r ∧
          pixel s.fb c r = true) → t.reg VF = 0) ∧
      t.pc = s.pc + 2 ∧ t.fbUpdated = true ∧
      Footprint.Keeps { regs := [VF], display := true } s t

/-- R128: the bit-by-bit blit of one sprite byte is its byte-level form, under `clip` and under `wrap`, the
framebuffer and the collision alike. R128 is marked [derived] from R121. -/
def Obligations.BlitRowIsItsByteForm : Prop :=
  ∀ (h : HWrap) (row x0 : Nat) (sb : Byte) (fb : Framebuffer) (collide : Bool), row < 32 → x0 < 64 →
    blitRow h row x0 sb (fb, collide) = blitRowBytes h row x0 sb (fb, collide)

/-- R129, with its second sentence as R122 has it (log 18): a sprite drawn twice restores the framebuffer; the
second draw collides exactly when a covered pixel was unlit before the first; so from a clear screen exactly when
the sprite covers a pixel, and a sprite that covers none never collides. R129 is marked [derived]. -/
def Obligations.DrawingTwiceRestores : Prop :=
  ∀ (h : HWrap) (fb : Framebuffer) (sprite : List Byte) (x0 y0 : Nat),
    sprite.length ≤ 15 → x0 < 64 → y0 < 32 →
    (blit h (blit h fb sprite x0 y0).1 sprite x0 y0).1 = fb ∧
    ((blit h (blit h fb sprite x0 y0).1 sprite x0 y0).2 = true ↔
      ∃ c r, SpriteCovers h sprite x0 y0 c r ∧ pixel fb c r = false)

/-! Control transfer (42_flow.md). -/

/-- R140: `00EE` on a non-empty stack takes the popped value as `pc`, with no +2. -/
def Obligations.RetResumesAtPoppedAddress : Prop :=
  ∀ (s : State) (a : Word) (rest : List Word), s.stack = a :: rest →
    ∃ t, exec .ret s = .next t ∧ t.pc = a ∧ t.stack = rest ∧ t.fbUpdated = false ∧
      Footprint.Keeps { stack := true } s t

/-- R143: `2nnn` on a stack that is not full pushes `pc + 2` modulo 65536 and goes to `nnn`. -/
def Obligations.CallPushesNextAddress : Prop :=
  ∀ (nnn : Addr12) (s : State), s.cfg.stackDepth ≠ some s.stack.length →
    ∃ t ret, exec (.call nnn) s = .next t ∧ t.stack = ret :: s.stack ∧
      ret.toNat = (s.pc.toNat + 2) % 65536 ∧ t.pc.toNat = nnn.toNat ∧ t.fbUpdated = false ∧
      Footprint.Keeps { stack := true } s t

/-- R145: in a run without a fault, any sequence in which every return matches an earlier call leaves the stack as
it was, and the return that matches a call resumes at the instruction after that call. The general sentence of R145
is marked [derived]. -/
def Obligations.CallsAndReturnsNest : Prop :=
  ∀ (body : List Instr) (s t : State), Balanced body → s.fault = none → t.fault = none →
    (execAll body s = .next t → t.stack = s.stack) ∧
    (∀ nnn, execAll (.call nnn :: (body ++ [.ret])) s = .next t → t.stack = s.stack ∧ t.pc = s.pc + 2)

/-- R141, R142, R144: `1nnn` goes to `nnn`, `Bnnn` to `nnn + V0` unreduced; no +2 follows and nothing else changes.
That `pc` keeps a sum above 0xFFF unreduced is D11. -/
def Obligations.JumpsTakeTheirTargetAsGiven : Prop :=
  ∀ (nnn : Addr12) (s : State),
    (∃ t, exec (.jp nnn) s = .next t ∧ t.pc.toNat = nnn.toNat ∧ t.fbUpdated = false ∧
      Footprint.Keeps {} s t) ∧
    (∃ t, exec (.jpV0 nnn) s = .next t ∧ t.pc.toNat = nnn.toNat + (s.reg V0).toNat ∧ t.fbUpdated = false ∧
      Footprint.Keeps {} s t)

/-- R146, R147: `3xkk` skips when V[x] = kk, `4xkk` when V[x] ≠ kk: `pc` advances by 4, else by 2 (40_dispatch.md R104,
R106), modulo 65536; nothing else changes. -/
def Obligations.ImmediateSkips : Prop :=
  ∀ (x : Reg) (kk : Byte) (s : State),
    (∃ t, exec (.seImm x kk) s = .next t ∧ t.fbUpdated = false ∧ Footprint.Keeps {} s t ∧
      t.pc.toNat = (s.pc.toNat + if s.reg x = kk then 4 else 2) % 65536) ∧
    (∃ t, exec (.sneImm x kk) s = .next t ∧ t.fbUpdated = false ∧ Footprint.Keeps {} s t ∧
      t.pc.toNat = (s.pc.toNat + if s.reg x ≠ kk then 4 else 2) % 65536)

/-- R148, R149: `5xy0` skips when V[x] = V[y], `9xy0` when they differ; nothing else changes. -/
def Obligations.RegisterSkips : Prop :=
  ∀ (x y : Reg) (s : State),
    (∃ t, exec (.seReg x y) s = .next t ∧ t.fbUpdated = false ∧ Footprint.Keeps {} s t ∧
      t.pc.toNat = (s.pc.toNat + if s.reg x = s.reg y then 4 else 2) % 65536) ∧
    (∃ t, exec (.sneReg x y) s = .next t ∧ t.fbUpdated = false ∧ Footprint.Keeps {} s t ∧
      t.pc.toNat = (s.pc.toNat + if s.reg x ≠ s.reg y then 4 else 2) % 65536)

/-- 40_dispatch.md R108: an unrecognized word writes no state; the outcome is Next. -/
def Obligations.UnrecognizedWordIsNoOp : Prop :=
  ∀ (w : Word) (s : State),
    ∃ t, exec (.unrecognized w) s = .next t ∧ t.pc.toNat = (s.pc.toNat + 2) % 65536 ∧ t.fbUpdated = false ∧
      Footprint.Keeps {} s t

/-! Arithmetic and logic (43_alu.md). -/

/-- R160, R161: `6xkk` sets V[x] to kk, `7xkk` adds kk modulo 256 with no flag. -/
def Obligations.ImmediateLoadAndAdd : Prop :=
  ∀ (x : Reg) (kk : Byte) (s : State),
    (∃ t, exec (.ldImm x kk) s = .next t ∧ t.reg x = kk ∧ t.pc = s.pc + 2 ∧ t.fbUpdated = false ∧
      Footprint.Keeps { regs := [x] } s t) ∧
    (∃ t, exec (.addImm x kk) s = .next t ∧ (t.reg x).toNat = ((s.reg x).toNat + kk.toNat) % 256 ∧
      t.pc = s.pc + 2 ∧ t.fbUpdated = false ∧ Footprint.Keeps { regs := [x] } s t)

/-- R162 to R165: the copy and the three logic operations, bit by bit; no flag. -/
def Obligations.CopyAndLogic : Prop :=
  ∀ (x y : Reg) (s : State),
    (∃ t, exec (.ldReg x y) s = .next t ∧ t.reg x = s.reg y ∧
      t.pc = s.pc + 2 ∧ t.fbUpdated = false ∧ Footprint.Keeps { regs := [x] } s t) ∧
    (∃ t, exec (.orReg x y) s = .next t ∧
      (∀ k, k < 8 → (t.reg x).getLsbD k = ((s.reg x).getLsbD k || (s.reg y).getLsbD k)) ∧
      t.pc = s.pc + 2 ∧ t.fbUpdated = false ∧ Footprint.Keeps { regs := [x] } s t) ∧
    (∃ t, exec (.andReg x y) s = .next t ∧
      (∀ k, k < 8 → (t.reg x).getLsbD k = ((s.reg x).getLsbD k && (s.reg y).getLsbD k)) ∧
      t.pc = s.pc + 2 ∧ t.fbUpdated = false ∧ Footprint.Keeps { regs := [x] } s t) ∧
    (∃ t, exec (.xorReg x y) s = .next t ∧
      (∀ k, k < 8 → (t.reg x).getLsbD k = ((s.reg x).getLsbD k ^^ (s.reg y).getLsbD k)) ∧
      t.pc = s.pc + 2 ∧ t.fbUpdated = false ∧ Footprint.Keeps { regs := [x] } s t)

/-- R166: `8xy4` gives the sum modulo 256 and, unless x is 15, the carry in `VF`; with x = 15 the result wins. With
x = 15 the order of the writes is D4. -/
def Obligations.AddWithCarry : Prop :=
  ∀ (x y : Reg) (s : State),
    ∃ t, exec (.addReg x y) s = .next t ∧
      (t.reg x).toNat = ((s.reg x).toNat + (s.reg y).toNat) % 256 ∧
      (x ≠ VF → t.reg VF = if (s.reg x).toNat + (s.reg y).toNat > 255 then 1 else 0) ∧
      t.pc = s.pc + 2 ∧ t.fbUpdated = false ∧ Footprint.Keeps { regs := [x, VF] } s t

/-- R167, R169: `8xy5` gives V[x] - V[y] and `8xy7` V[y] - V[x] modulo 256; `VF`, unless x is 15, is 1 exactly when
the minuend is strictly greater. With x = 15 the order of the writes is D4. -/
def Obligations.SubtractWithStrictFlag : Prop :=
  ∀ (x y : Reg) (s : State),
    (∃ t, exec (.subReg x y) s = .next t ∧
      (t.reg x).toNat = ((s.reg x).toNat + 256 - (s.reg y).toNat) % 256 ∧
      (x ≠ VF → t.reg VF = if (s.reg x).toNat > (s.reg y).toNat then 1 else 0) ∧
      t.pc = s.pc + 2 ∧ t.fbUpdated = false ∧ Footprint.Keeps { regs := [x, VF] } s t) ∧
    (∃ t, exec (.subn x y) s = .next t ∧
      (t.reg x).toNat = ((s.reg y).toNat + 256 - (s.reg x).toNat) % 256 ∧
      (x ≠ VF → t.reg VF = if (s.reg y).toNat > (s.reg x).toNat then 1 else 0) ∧
      t.pc = s.pc + 2 ∧ t.fbUpdated = false ∧ Footprint.Keeps { regs := [x, VF] } s t)

/-- R168, R170: `8xy6` halves V[x] and `8xyE` doubles it modulo 256, whatever V[y] is; `VF`, unless x is 15, is the
bit shifted out. With x = 15 the order of the writes is D4. -/
def Obligations.ShiftsByOne : Prop :=
  ∀ (x y : Reg) (s : State),
    (∃ t, exec (.shr x y) s = .next t ∧ (t.reg x).toNat = (s.reg x).toNat / 2 ∧
      (x ≠ VF → (t.reg VF).toNat = (s.reg x).toNat % 2) ∧
      t.pc = s.pc + 2 ∧ t.fbUpdated = false ∧ Footprint.Keeps { regs := [x, VF] } s t) ∧
    (∃ t, exec (.shl x y) s = .next t ∧ (t.reg x).toNat = 2 * (s.reg x).toNat % 256 ∧
      (x ≠ VF → (t.reg VF).toNat = (s.reg x).toNat / 128) ∧
      t.pc = s.pc + 2 ∧ t.fbUpdated = false ∧ Footprint.Keeps { regs := [x, VF] } s t)

/-- R172: `Cxkk` gives r & kk for whatever byte r the step has drawn. That r is a free input is D18; the field that
holds the drawn byte is log 3 (DESIGN CHOICE). -/
def Obligations.RandomAndMask : Prop :=
  ∀ (x : Reg) (kk r : Byte) (s : State), s.rand = r →
    ∃ t, exec (.rnd x kk) s = .next t ∧
      (∀ k, k < 8 → (t.reg x).getLsbD k = (r.getLsbD k && kk.getLsbD k)) ∧
      t.pc = s.pc + 2 ∧ t.fbUpdated = false ∧ Footprint.Keeps { regs := [x] } s t

/-! Index register and memory transfer (44_index_memory.md). -/

/-- R180 to R182: `Annn` sets I to nnn, `Fx1E` adds V[x] modulo 65536 with no flag, `Fx29` sets I to V[x] × 5
without masking V[x]. The wrap of `Fx1E` is D12. -/
def Obligations.IndexRegisterWrites : Prop :=
  ∀ (nnn : Addr12) (x : Reg) (s : State),
    (∃ t, exec (.ldI nnn) s = .next t ∧ t.i.toNat = nnn.toNat ∧
      t.pc = s.pc + 2 ∧ t.fbUpdated = false ∧ Footprint.Keeps { index := true } s t) ∧
    (∃ t, exec (.addI x) s = .next t ∧ t.i.toNat = (s.i.toNat + (s.reg x).toNat) % 65536 ∧
      t.pc = s.pc + 2 ∧ t.fbUpdated = false ∧ Footprint.Keeps { index := true } s t) ∧
    (∃ t, exec (.ldF x) s = .next t ∧ t.i.toNat = (s.reg x).toNat * 5 ∧
      t.pc = s.pc + 2 ∧ t.fbUpdated = false ∧ Footprint.Keeps { index := true } s t)

/-- R183: `Fx33` stores the hundreds, tens and ones of V[x] at I, I + 1, I + 2 modulo 4096, and no other byte; I is
unchanged. -/
def Obligations.StoreDecimalDigits : Prop :=
  ∀ (x : Reg) (s : State),
    ∃ t, exec (.ldB x) s = .next t ∧
      (t.memRead (s.effAddr 0)).toNat = (s.reg x).toNat / 100 ∧
      (t.memRead (s.effAddr 1)).toNat = (s.reg x).toNat / 10 % 10 ∧
      (t.memRead (s.effAddr 2)).toNat = (s.reg x).toNat % 10 ∧
      t.pc = s.pc + 2 ∧ t.fbUpdated = false ∧
      Footprint.Keeps { stored := [s.effAddr 0, s.effAddr 1, s.effAddr 2] } s t

/-- R184: `Fx55` stores V[0] to V[x] at I on, modulo 4096, and no other byte; I is unchanged. That I is unchanged is
D13. -/
def Obligations.StoreRegisters : Prop :=
  ∀ (x : Reg) (s : State),
    ∃ t, exec (.stRegs x) s = .next t ∧
      (∀ j, j ≤ x.toNat → t.memRead (s.effAddr j) = s.reg (BitVec.ofNat 4 j)) ∧
      t.pc = s.pc + 2 ∧ t.fbUpdated = false ∧
      Footprint.Keeps { stored := (List.range (x.toNat + 1)).map s.effAddr } s t

/-- R185: `Fx65` loads V[0] to V[x] from I on, modulo 4096, and no other register; I is unchanged. That I is
unchanged is D13. -/
def Obligations.LoadRegisters : Prop :=
  ∀ (x : Reg) (s : State),
    ∃ t, exec (.ldRegs x) s = .next t ∧
      (∀ j, j ≤ x.toNat → t.reg (BitVec.ofNat 4 j) = s.memRead (s.effAddr j)) ∧
      t.pc = s.pc + 2 ∧ t.fbUpdated = false ∧
      Footprint.Keeps { regs := (List.range (x.toNat + 1)).map (BitVec.ofNat 4) } s t

/-- R184 with R185: registers stored by `Fx55` come back by `Fx65` at the same I, whatever the registers, timers,
screen or stack have become in between. That I is unchanged is D13. -/
def Obligations.StoredRegistersLoadBack : Prop :=
  ∀ (x : Reg) (s t u : State), exec (.stRegs x) s = .next t →
    (∀ a, u.memRead a = t.memRead a) → u.i = t.i →
    ∃ w, exec (.ldRegs x) u = .next w ∧ ∀ j, j ≤ x.toNat → w.reg (BitVec.ofNat 4 j) = s.reg (BitVec.ofNat 4 j)

/-- 20_memory.md R65: what `Fx55` and `Fx33` store is what the next step fetches, byte by byte: a byte of the next word
that the transfer covers is the stored one (both, or either of them), and one that it does not cover is as before. R65 is
marked [derived]. -/
def Obligations.StoreIsSeenByTheNextFetch : Prop :=
  ∀ (x : Reg) (s : State),
    (∃ t, exec (.stRegs x) s = .next t ∧
      FetchSeesStored s t ((List.range (x.toNat + 1)).map fun j => (s.reg (BitVec.ofNat 4 j)).toNat)) ∧
    (∃ t, exec (.ldB x) s = .next t ∧
      FetchSeesStored s t [(s.reg x).toNat / 100, (s.reg x).toNat / 10 % 10, (s.reg x).toNat % 10])

/-! Keypad and timers (45_timer_keypad.md, 60_exceptions.md). -/

/-- R200, R201, R206: `Ex9E` skips exactly when V[x] is below 16 and that key is pressed; `ExA1` exactly when not.
An index of 16 or more is D10. -/
def Obligations.KeypadSkips : Prop :=
  ∀ (x : Reg) (s : State),
    (∃ t, exec (.skp x) s = .next t ∧ t.fbUpdated = false ∧ Footprint.Keeps {} s t ∧
      (s.key[(s.reg x).toNat]? = some true → t.pc.toNat = (s.pc.toNat + 4) % 65536) ∧
      (s.key[(s.reg x).toNat]? ≠ some true → t.pc.toNat = (s.pc.toNat + 2) % 65536)) ∧
    (∃ t, exec (.sknp x) s = .next t ∧ t.fbUpdated = false ∧ Footprint.Keeps {} s t ∧
      (s.key[(s.reg x).toNat]? ≠ some true → t.pc.toNat = (s.pc.toNat + 4) % 65536) ∧
      (s.key[(s.reg x).toNat]? = some true → t.pc.toNat = (s.pc.toNat + 2) % 65536))

/-- R203: with key k pressed and none below it, `Fx0A` sets V[x] to k and goes on; with no key pressed it holds:
`pc` and everything else is as before, and `fb_updated` is false (40_dispatch.md R109). The hold, and the wait on a
level, are D15. -/
def Obligations.KeyWaitTakesLowestKeyOrHolds : Prop :=
  ∀ (x : Reg) (s : State),
    (∀ k : Nat, s.key[k]? = some true → (∀ j : Nat, j < k → s.key[j]? ≠ some true) →
      ∃ t, exec (.ldXK x) s = .next t ∧ (t.reg x).toNat = k ∧ t.pc = s.pc + 2 ∧ t.fbUpdated = false ∧
        Footprint.Keeps { regs := [x] } s t) ∧
    ((∀ k : Nat, s.key[k]? ≠ some true) → exec (.ldXK x) s = .next { s with fbUpdated := false })

/-- R107, R203, R229: with no key pressed a step at a `Fx0A` holds `pc` and writes no register or memory, while the
timers still take their tick; the next step fetches the same word. The hold is D15, the order of the iteration D16
(log 1). -/
def Obligations.KeyWaitHoldsWhileTimersRun : Prop :=
  ∀ (x : Reg) (s : State), s.enabled = true → s.nextInput.poll = [] → decode s.fetchWord = .ldXK x →
    (∀ k : Nat, s.key[k]? ≠ some true) →
    ∃ t, step s = .next t ∧ t.pc = s.pc ∧ t.fetchWord = s.fetchWord ∧
      (∀ r, t.reg r = s.reg r) ∧ (∀ a, t.memRead a = s.memRead a) ∧ t.i = s.i ∧ t.stack = s.stack ∧ t.fb = s.fb ∧
      t.key = s.key ∧ t.running = s.running ∧ t.fault = s.fault ∧ t.cfg = s.cfg ∧ t.fbUpdated = false ∧
      t.dt.toNat = s.dt.toNat - (if s.nextInput.tick then 1 else 0) ∧
      t.st.toNat = s.st.toNat - (if s.nextInput.tick then 1 else 0)

/-- R202, R204, R205: `Fx07` reads DT, `Fx15` and `Fx18` set DT and ST from V[x]; after `Fx18` the sound output is
true exactly when V[x] is not 0 (60_exceptions.md R233). That the sound output is a level is D17. -/
def Obligations.TimerMoves : Prop :=
  ∀ (x : Reg) (s : State),
    (∃ t, exec (.ldXDt x) s = .next t ∧ t.reg x = s.dt ∧
      t.pc = s.pc + 2 ∧ t.fbUpdated = false ∧ Footprint.Keeps { regs := [x] } s t) ∧
    (∃ t, exec (.ldDtX x) s = .next t ∧ t.dt = s.reg x ∧
      t.pc = s.pc + 2 ∧ t.fbUpdated = false ∧ Footprint.Keeps { delay := true } s t) ∧
    (∃ t, exec (.ldStX x) s = .next t ∧ t.st = s.reg x ∧ (t.sound = true ↔ s.reg x ≠ 0) ∧
      t.pc = s.pc + 2 ∧ t.fbUpdated = false ∧ Footprint.Keeps { sound := true } s t)

/-- 60_exceptions.md R231, 10_state.md R29: a tick takes one from each timer above 0, leaves a timer at 0 there, and
touches nothing else. -/
def Obligations.TickDecrementsRunningTimers : Prop :=
  ∀ s : State,
    s.tick.dt.toNat = s.dt.toNat - 1 ∧ s.tick.st.toNat = s.st.toNat - 1 ∧
    s.tick = { s with dt := s.tick.dt, st := s.tick.st }

/-- 60_exceptions.md R232: over any step that does not execute `Fx15`, DT falls by at most one and never rises; the
same of ST and `Fx18`. That at most one tick follows a step is marked [derived] (R232); the order is D16 (log 1). -/
def Obligations.TimersFallByAtMostOnePerStep : Prop :=
  ∀ s t : State, step s = .next t →
    ((∀ x, decode s.fetchWord ≠ .ldDtX x) → t.dt.toNat ≤ s.dt.toNat ∧ s.dt.toNat ≤ t.dt.toNat + 1) ∧
    ((∀ x, decode s.fetchWord ≠ .ldStX x) → t.st.toNat ≤ s.st.toNat ∧ s.st.toNat ≤ t.st.toNat + 1)

/-- 60_exceptions.md R234, R235: `KeySet(k, b)` makes key k read b and leaves every other key and the rest of the state;
`KeyClearAll` releases every key. A poll applies its events in order: after its last event the latch is what that event
makes of the latch the earlier ones left; an empty poll and a `Quit` leave it. -/
def Obligations.KeyEventsSetTheLatch : Prop :=
  ∀ (s : State) (k : Fin 16) (b : Bool),
    (∀ j, j < 16 → (s.keySet k b).keyAt j = if j = k.val then b else s.keyAt j) ∧
    s.keySet k b = { s with key := (s.keySet k b).key } ∧
    (∀ j, s.keyClearAll.keyAt j = false) ∧
    s.keyClearAll = { s with key := s.keyClearAll.key } ∧
    (s.applyPoll []).key = s.key ∧
    ∀ es : List InputEvent,
      (∀ j, j < 16 →
        (s.applyPoll (es ++ [.keySet k b])).keyAt j = if j = k.val then b else (s.applyPoll es).keyAt j) ∧
      (∀ j, (s.applyPoll (es ++ [.keyClearAll])).keyAt j = false) ∧
      (s.applyPoll (es ++ [.quit])).key = (s.applyPoll es).key

/-! Creation and boot (10_state.md, 70_reset_and_hazards.md). -/

/-- R46, R50, R252: creation with any parameters: FONT at 0x000 to 0x04F, zero elsewhere, every register and timer
0, `pc` 0x200, an empty stack, no key pressed, a clear framebuffer, running, no fault, `fb_updated` false. The
values are D2, D3, D9, D21 and D22; the font is the parameter (D19). -/
def Obligations.CreationValues : Prop :=
  ∀ cfg : Config,
    (∀ x, (State.create cfg).reg x = 0) ∧ (State.create cfg).i = 0 ∧ (State.create cfg).pc.toNat = 512 ∧
    (State.create cfg).dt = 0 ∧ (State.create cfg).st = 0 ∧ (State.create cfg).stack = [] ∧
    (∀ k, (State.create cfg).keyAt k = false) ∧
    (∀ c r, pixel (State.create cfg).fb c r = false) ∧ (State.create cfg).running = true ∧
    (State.create cfg).fault = none ∧ (State.create cfg).fbUpdated = false ∧
    (∀ a, (h : a < 80) → (State.create cfg).memRead a = cfg.font[a]) ∧
    (∀ a, 80 ≤ a → a < 4096 → (State.create cfg).memRead a = 0)

/-- R182, R252: while the bytes at 0x000 to 0x04F are `FONT`'s, whatever program stands above them, `Fx29` with a digit d
in V[x] points I at the five bytes of glyph d, which `Dxy5` then reads as its sprite. The font's values are the parameter
(D19). -/
def Obligations.FontGlyphReachedByFx29 : Prop :=
  ∀ (x : Reg) (s : State), (∀ a, (h : a < 80) → s.memRead a = s.cfg.font[a]) → (s.reg x).toNat < 16 →
    ∃ t, exec (.ldF x) s = .next t ∧
      ∀ j, (h : j < 5) → (h' : 5 * (s.reg x).toNat + j < 80) →
        (t.sprite 5)[j]? = some (s.cfg.font[5 * (s.reg x).toNat + j])

/-- R251, R254: a ROM of at most 3584 bytes boots: its bytes stand from 0x200 on in file order, the font and the
rest of memory are as creation left them, and `pc` is at its first byte; a longer ROM is refused. The limit of 3584
bytes is D20. -/
def Obligations.BootLoadsRomOrRefuses : Prop :=
  ∀ (cfg : Config) (rom : List Byte),
    (rom.length ≤ 3584 → ∃ t, boot cfg rom = .next t ∧ t.pc.toNat = 0x200 ∧
      (∀ j, (h : j < rom.length) → t.memRead (0x200 + j) = rom[j]) ∧
      (∀ a, a < 4096 → (a < 0x200 ∨ 0x200 + rom.length ≤ a) → t.memRead a = (State.create cfg).memRead a) ∧
      t = { State.create cfg with mem := t.mem, loaded := true }) ∧
    (3584 < rom.length → boot cfg rom = .refused .romTooLong)

/-- R254, R45: `Load` at a start address: it is accepted once, before the first step, and where its bytes end at 0xFFF
or below; then the bytes stand from that address on in order and nothing else has changed but that the load is made. The
limit at 0x200 is D20; the limit at another address is the model's choice (log 12). -/
def Obligations.LoadIsAcceptedOnceWhereItFits : Prop :=
  ∀ (s : State) (a : Nat) (bytes : List Byte),
    ((∃ t, hostLoad a bytes s = .next t) ↔ s.iter = 0 ∧ s.loaded = false ∧ a + bytes.length ≤ 4096) ∧
    (∀ t, hostLoad a bytes s = .next t →
      (∀ j, (h : j < bytes.length) → t.memRead (a + j) = bytes[j]) ∧
      (∀ c, c < 4096 → (c < a ∨ a + bytes.length ≤ c) → t.memRead c = s.memRead c) ∧
      t = { s with mem := t.mem, loaded := true } ∧
      (∀ c more u, hostLoad c more t ≠ .next u))

/-- R254, 20_memory.md R62: the host's `Load` is done before the first step and never again: a load is refused in every
state a step has answered. The discipline is D23; how the model keeps it is log 12. -/
def Obligations.NoLoadAfterTheFirstStep : Prop :=
  ∀ (s t : State) (a : Nat) (bytes : List Byte), step s = .next t → hostLoad a bytes t = .refused .loadAfterStart
end

