-- ==== Sys2Proof/Laws/Decode.lean ====
section
/-! SUPPORT. The bits of an encoded word, format by format (30_encoding.md R72); the fields read back from it; and the
bits that the mask of an opcode row keeps. -/

namespace Sys2Proof

theorem getLsbD_encodeNNN (o : BitVec 4) (nnn : Addr12) (k : Nat) :
    (encodeNNN o nnn).getLsbD k = if k < 12 then nnn.getLsbD k else o.getLsbD (k - 12) :=
  BitVec.getLsbD_append

theorem getLsbD_encodeXKK (o : BitVec 4) (x : Reg) (kk : Byte) (k : Nat) :
    (encodeXKK o x kk).getLsbD k =
      if k < 8 then kk.getLsbD k else if k < 12 then x.getLsbD (k - 8) else o.getLsbD (k - 12) := by
  refine (BitVec.getLsbD_append (x := o ++ x) (y := kk)).trans ?_
  rw [BitVec.getLsbD_append]
  split
  · rfl
  · simp only [show k - 8 < 4 ↔ k < 12 by omega, show k - 8 - 4 = k - 12 by omega]

theorem getLsbD_encodeXYN (o : BitVec 4) (x y : Reg) (n : Nibble) (k : Nat) :
    (encodeXYN o x y n).getLsbD k =
      if k < 4 then n.getLsbD k else if k < 8 then y.getLsbD (k - 4)
      else if k < 12 then x.getLsbD (k - 8) else o.getLsbD (k - 12) := by
  refine (BitVec.getLsbD_append (x := o ++ x ++ y) (y := n)).trans ?_
  rw [BitVec.getLsbD_append, BitVec.getLsbD_append]
  split
  · rfl
  · simp only [show k - 4 < 4 ↔ k < 8 by omega, show k - 4 - 4 = k - 8 by omega,
      show k - 8 < 4 ↔ k < 12 by omega, show k - 8 - 4 = k - 12 by omega]

@[simp] theorem opField_encodeNNN (o : BitVec 4) (nnn : Addr12) :
    opField (encodeNNN o nnn) = o := by
  apply BitVec.eq_of_getLsbD_eq
  intro k hk
  have h12 : ¬ 12 + k < 12 := by omega
  simp [opField, getLsbD_encodeNNN, hk, h12]

@[simp] theorem nnnField_encodeNNN (o : BitVec 4) (nnn : Addr12) :
    nnnField (encodeNNN o nnn) = nnn := by
  apply BitVec.eq_of_getLsbD_eq
  intro k hk
  simp [nnnField, getLsbD_encodeNNN, hk]

@[simp] theorem opField_encodeXKK (o : BitVec 4) (x : Reg) (kk : Byte) :
    opField (encodeXKK o x kk) = o := by
  apply BitVec.eq_of_getLsbD_eq
  intro k hk
  have h8 : ¬ 12 + k < 8 := by omega
  have h12 : ¬ 12 + k < 12 := by omega
  simp [opField, getLsbD_encodeXKK, hk, h8, h12]

@[simp] theorem xField_encodeXKK (o : BitVec 4) (x : Reg) (kk : Byte) :
    xField (encodeXKK o x kk) = x := by
  apply BitVec.eq_of_getLsbD_eq
  intro k hk
  have h8 : ¬ 8 + k < 8 := by omega
  have h12 : 8 + k < 12 := by omega
  simp [xField, getLsbD_encodeXKK, hk, h8, h12]

@[simp] theorem kkField_encodeXKK (o : BitVec 4) (x : Reg) (kk : Byte) :
    kkField (encodeXKK o x kk) = kk := by
  apply BitVec.eq_of_getLsbD_eq
  intro k hk
  simp [kkField, getLsbD_encodeXKK, hk]

@[simp] theorem opField_encodeXYN (o : BitVec 4) (x y : Reg) (n : Nibble) :
    opField (encodeXYN o x y n) = o := by
  apply BitVec.eq_of_getLsbD_eq
  intro k hk
  have h4 : ¬ 12 + k < 4 := by omega
  have h8 : ¬ 12 + k < 8 := by omega
  have h12 : ¬ 12 + k < 12 := by omega
  simp [opField, getLsbD_encodeXYN, hk, h4, h8, h12]

@[simp] theorem xField_encodeXYN (o : BitVec 4) (x y : Reg) (n : Nibble) :
    xField (encodeXYN o x y n) = x := by
  apply BitVec.eq_of_getLsbD_eq
  intro k hk
  have h4 : ¬ 8 + k < 4 := by omega
  have h8 : ¬ 8 + k < 8 := by omega
  have h12 : 8 + k < 12 := by omega
  simp [xField, getLsbD_encodeXYN, hk, h4, h8, h12]

@[simp] theorem yField_encodeXYN (o : BitVec 4) (x y : Reg) (n : Nibble) :
    yField (encodeXYN o x y n) = y := by
  apply BitVec.eq_of_getLsbD_eq
  intro k hk
  have h4 : ¬ 4 + k < 4 := by omega
  have h8 : 4 + k < 8 := by omega
  simp [yField, getLsbD_encodeXYN, hk, h4, h8]

@[simp] theorem nField_encodeXYN (o : BitVec 4) (x y : Reg) (n : Nibble) :
    nField (encodeXYN o x y n) = n := by
  apply BitVec.eq_of_getLsbD_eq
  intro k hk
  simp [nField, getLsbD_encodeXYN, hk]

theorem encodeNNN_and_op (o : BitVec 4) (nnn : Addr12) :
    encodeNNN o nnn &&& 0xF000#16 = encodeNNN o 0 := by
  apply BitVec.eq_of_getLsbD_eq
  intro k hk
  rw [BitVec.getLsbD_and, getLsbD_encodeNNN, getLsbD_encodeNNN]
  interval_cases k <;> simp

theorem encodeXKK_and_op (o : BitVec 4) (x : Reg) (kk : Byte) :
    encodeXKK o x kk &&& 0xF000#16 = encodeXKK o 0 0 := by
  apply BitVec.eq_of_getLsbD_eq
  intro k hk
  rw [BitVec.getLsbD_and, getLsbD_encodeXKK, getLsbD_encodeXKK]
  interval_cases k <;> simp

theorem encodeXKK_and_byte (o : BitVec 4) (x : Reg) (kk : Byte) :
    encodeXKK o x kk &&& 0xF0FF#16 = encodeXKK o 0 kk := by
  apply BitVec.eq_of_getLsbD_eq
  intro k hk
  rw [BitVec.getLsbD_and, getLsbD_encodeXKK, getLsbD_encodeXKK]
  interval_cases k <;> simp

theorem encodeXYN_and_op (o : BitVec 4) (x y : Reg) (n : Nibble) :
    encodeXYN o x y n &&& 0xF000#16 = encodeXYN o 0 0 0 := by
  apply BitVec.eq_of_getLsbD_eq
  intro k hk
  rw [BitVec.getLsbD_and, getLsbD_encodeXYN, getLsbD_encodeXYN]
  interval_cases k <;> simp

theorem encodeXYN_and_nibble (o : BitVec 4) (x y : Reg) (n : Nibble) :
    encodeXYN o x y n &&& 0xF00F#16 = encodeXYN o 0 0 n := by
  apply BitVec.eq_of_getLsbD_eq
  intro k hk
  rw [BitVec.getLsbD_and, getLsbD_encodeXYN, getLsbD_encodeXYN]
  interval_cases k <;> simp

/-- The two bytes of a word put together give it back (20_memory.md R54). -/
@[simp] theorem wordOfBytes_bytes (w : Word) : wordOfBytes (highByte w) (lowByte w) = w := by
  apply BitVec.eq_of_getLsbD_eq
  intro k hk
  refine (BitVec.getLsbD_append (x := highByte w) (y := lowByte w)).trans ?_
  by_cases h : k < 8
  · simp [h, lowByte]
  · have h8 : k - 8 < 8 := by omega
    have hk' : 8 + (k - 8) = k := by omega
    simp [h, highByte, h8, hk']

/-- The decoder on bytes is the decoder on their word. -/
theorem decodeBytes_cons (hi lo : Byte) (rest : List Byte) :
    decodeBytes (hi :: lo :: rest) = .ok (decode (wordOfBytes hi lo), rest) := rfl

end Sys2Proof
end

