-- ==== Sys2Proof/Laws/Memory.lean ====
section
/-! SUPPORT. The memory operations: a read after a write, and the canonical form, which every operation keeps. The reads
hold on any list of cells, canonical or not. -/

namespace Sys2Proof.Machine

theorem Memory.find_insert (a b : Nat) (v : Byte) (m : List Host.Cell) :
    Memory.find b (Memory.insert a v m) = if b = a then some v else Memory.find b m := by
  induction m with
  | nil => simp [Memory.insert, Memory.find, eq_comm]
  | cons c m ih =>
    by_cases hlt : c.1 < a
    · by_cases hb : c.1 = b
      · have : b ≠ a := by omega
        simp only [Memory.insert, if_pos hlt, Memory.find, if_pos hb, if_neg this]
      · simp [Memory.insert, Memory.find, hlt, hb, ih]
    · by_cases heq : c.1 = a
      · by_cases hb : b = a
        · simp [Memory.insert, Memory.find, heq, hb]
        · simp [Memory.insert, Memory.find, heq, hb, Ne.symm hb]
      · by_cases hb : b = a
        · simp [Memory.insert, Memory.find, hlt, heq, hb]
        · simp [Memory.insert, Memory.find, hlt, heq, hb, Ne.symm hb]

theorem Memory.find_erase (a b : Nat) (m : List Host.Cell) :
    Memory.find b (Memory.erase a m) = if b = a then none else Memory.find b m := by
  induction m with
  | nil => simp [Memory.erase, Memory.find]
  | cons c m ih =>
    unfold Memory.erase at ih ⊢
    by_cases hc : c.1 = a
    · simp only [List.filter_cons, hc, bne_self_eq_false, Bool.false_eq_true, if_false, ih, Memory.find]
      by_cases hb : b = a
      · simp [hb]
      · simp [hb, Ne.symm hb]
    · simp only [List.filter_cons, bne_iff_ne, ne_eq, hc, not_false_eq_true, if_true, Memory.find, ih]
      by_cases hb : b = a
      · simp [hb, hc]
      · simp [hb]

/-- A read after a write: the byte written at its own address, what was there at every other. -/
theorem Memory.read_write (font : Vector Byte 80) (m : List Host.Cell) (a b : Nat) (v : Byte) :
    Memory.read font (Memory.write font m a v) b = if b = a then v else Memory.read font m b := by
  unfold Memory.write Memory.read
  split
  · rename_i hv
    rw [Memory.find_erase]
    by_cases hb : b = a
    · simp [hb, hv]
    · simp [hb]
  · rw [Memory.find_insert]
    by_cases hb : b = a
    · simp [hb]
    · simp [hb]

theorem Memory.wfFrom_mono (font : Vector Byte 80) {lo lo' : Nat} (m : List Host.Cell) (h : lo' ≤ lo)
    (hm : Memory.wfFrom font lo m = true) : Memory.wfFrom font lo' m = true := by
  cases m with
  | nil => rfl
  | cons c m =>
    simp only [Memory.wfFrom, Bool.and_eq_true, decide_eq_true_eq] at hm ⊢
    exact ⟨⟨⟨by omega, hm.1.1.2⟩, hm.1.2⟩, hm.2⟩

theorem Memory.wfFrom_erase (font : Vector Byte 80) (a lo : Nat) (m : List Host.Cell)
    (hm : Memory.wfFrom font lo m = true) : Memory.wfFrom font lo (Memory.erase a m) = true := by
  induction m generalizing lo with
  | nil => rfl
  | cons c m ih =>
    simp only [Memory.wfFrom, Bool.and_eq_true, decide_eq_true_eq] at hm
    have ih' := ih (c.1 + 1) hm.2
    unfold Memory.erase at ih' ⊢
    by_cases hc : c.1 = a
    · simp only [List.filter_cons, hc, bne_self_eq_false, Bool.false_eq_true, if_false]
      exact Memory.wfFrom_mono font _ (by omega) ih'
    · simp only [List.filter_cons, bne_iff_ne, ne_eq, hc, not_false_eq_true, if_true, Memory.wfFrom,
        Bool.and_eq_true, decide_eq_true_eq]
      exact ⟨by simpa using hm.1, ih'⟩

theorem Memory.wfFrom_insert (font : Vector Byte 80) (a lo : Nat) (v : Byte) (m : List Host.Cell)
    (hlo : lo ≤ a) (ha : a < 4096) (hv : v ≠ Memory.unlisted font a) (hm : Memory.wfFrom font lo m = true) :
    Memory.wfFrom font lo (Memory.insert a v m) = true := by
  induction m generalizing lo with
  | nil => simp [Memory.insert, Memory.wfFrom, hlo, ha, hv]
  | cons c m ih =>
    simp only [Memory.wfFrom, Bool.and_eq_true, decide_eq_true_eq] at hm
    unfold Memory.insert
    split
    · rename_i hlt
      simp only [Memory.wfFrom, Bool.and_eq_true, decide_eq_true_eq]
      exact ⟨hm.1, ih (c.1 + 1) (by omega) hm.2⟩
    · split
      · rename_i heq
        simp only [Memory.wfFrom, Bool.and_eq_true, decide_eq_true_eq, bne_iff_ne, ne_eq]
        exact ⟨⟨⟨hlo, ha⟩, hv⟩, heq ▸ hm.2⟩
      · rename_i hge hne
        simp only [Memory.wfFrom, Bool.and_eq_true, decide_eq_true_eq, bne_iff_ne, ne_eq]
        exact ⟨⟨⟨hlo, ha⟩, hv⟩, ⟨⟨by omega, hm.1.1.2⟩, by simpa using hm.1.2⟩, hm.2⟩

/-- A write keeps the canonical form. -/
theorem Memory.wf_write (font : Vector Byte 80) (m : List Host.Cell) (a : Nat) (v : Byte) (ha : a < 4096)
    (hm : Memory.wf font m = true) : Memory.wf font (Memory.write font m a v) = true := by
  unfold Memory.write
  split
  · exact Memory.wfFrom_erase font a 0 m hm
  · rename_i hv
    exact Memory.wfFrom_insert font a 0 v m (Nat.zero_le a) ha hv hm

/-- The memory of a created machine lists nothing, and that is canonical. -/
theorem Memory.wf_create (cfg : Config) : Memory.wf cfg.font (State.create cfg).mem = true := rfl

end Sys2Proof.Machine
end

