-- ==== Sys2Proof/Laws/State.lean ====
section
/-! SUPPORT. For each update of the state, what it does to each field: one lemma a field, so that no proof unfolds a
record update. -/

namespace Sys2Proof.Machine

@[simp] theorem State.setReg_i (s : State) (x : Reg) (b : Byte) : (s.setReg x b).i = s.i := rfl
@[simp] theorem State.setReg_pc (s : State) (x : Reg) (b : Byte) : (s.setReg x b).pc = s.pc := rfl
@[simp] theorem State.setReg_dt (s : State) (x : Reg) (b : Byte) : (s.setReg x b).dt = s.dt := rfl
@[simp] theorem State.setReg_st (s : State) (x : Reg) (b : Byte) : (s.setReg x b).st = s.st := rfl
@[simp] theorem State.setReg_stack (s : State) (x : Reg) (b : Byte) : (s.setReg x b).stack = s.stack := rfl
@[simp] theorem State.setReg_key (s : State) (x : Reg) (b : Byte) : (s.setReg x b).key = s.key := rfl
@[simp] theorem State.setReg_mem (s : State) (x : Reg) (b : Byte) : (s.setReg x b).mem = s.mem := rfl
@[simp] theorem State.setReg_fb (s : State) (x : Reg) (b : Byte) : (s.setReg x b).fb = s.fb := rfl
@[simp] theorem State.setReg_running (s : State) (x : Reg) (b : Byte) : (s.setReg x b).running = s.running := rfl
@[simp] theorem State.setReg_fault (s : State) (x : Reg) (b : Byte) : (s.setReg x b).fault = s.fault := rfl
@[simp] theorem State.setReg_fbUpdated (s : State) (x : Reg) (b : Byte) : (s.setReg x b).fbUpdated = s.fbUpdated := rfl
@[simp] theorem State.setReg_cfg (s : State) (x : Reg) (b : Byte) : (s.setReg x b).cfg = s.cfg := rfl
@[simp] theorem State.setReg_env (s : State) (x : Reg) (b : Byte) : (s.setReg x b).env = s.env := rfl
@[simp] theorem State.setReg_iter (s : State) (x : Reg) (b : Byte) : (s.setReg x b).iter = s.iter := rfl
@[simp] theorem State.setReg_rand (s : State) (x : Reg) (b : Byte) : (s.setReg x b).rand = s.rand := rfl
@[simp] theorem State.setReg_loaded (s : State) (x : Reg) (b : Byte) : (s.setReg x b).loaded = s.loaded := rfl

@[simp] theorem State.setFlagThenReg_i (s : State) (f : Byte) (x : Reg) (b : Byte) : (s.setFlagThenReg f x b).i = s.i := rfl
@[simp] theorem State.setFlagThenReg_pc (s : State) (f : Byte) (x : Reg) (b : Byte) : (s.setFlagThenReg f x b).pc = s.pc := rfl
@[simp] theorem State.setFlagThenReg_dt (s : State) (f : Byte) (x : Reg) (b : Byte) : (s.setFlagThenReg f x b).dt = s.dt := rfl
@[simp] theorem State.setFlagThenReg_st (s : State) (f : Byte) (x : Reg) (b : Byte) : (s.setFlagThenReg f x b).st = s.st := rfl
@[simp] theorem State.setFlagThenReg_stack (s : State) (f : Byte) (x : Reg) (b : Byte) : (s.setFlagThenReg f x b).stack = s.stack := rfl
@[simp] theorem State.setFlagThenReg_key (s : State) (f : Byte) (x : Reg) (b : Byte) : (s.setFlagThenReg f x b).key = s.key := rfl
@[simp] theorem State.setFlagThenReg_mem (s : State) (f : Byte) (x : Reg) (b : Byte) : (s.setFlagThenReg f x b).mem = s.mem := rfl
@[simp] theorem State.setFlagThenReg_fb (s : State) (f : Byte) (x : Reg) (b : Byte) : (s.setFlagThenReg f x b).fb = s.fb := rfl
@[simp] theorem State.setFlagThenReg_running (s : State) (f : Byte) (x : Reg) (b : Byte) : (s.setFlagThenReg f x b).running = s.running := rfl
@[simp] theorem State.setFlagThenReg_fault (s : State) (f : Byte) (x : Reg) (b : Byte) : (s.setFlagThenReg f x b).fault = s.fault := rfl
@[simp] theorem State.setFlagThenReg_fbUpdated (s : State) (f : Byte) (x : Reg) (b : Byte) : (s.setFlagThenReg f x b).fbUpdated = s.fbUpdated := rfl
@[simp] theorem State.setFlagThenReg_cfg (s : State) (f : Byte) (x : Reg) (b : Byte) : (s.setFlagThenReg f x b).cfg = s.cfg := rfl
@[simp] theorem State.setFlagThenReg_env (s : State) (f : Byte) (x : Reg) (b : Byte) : (s.setFlagThenReg f x b).env = s.env := rfl
@[simp] theorem State.setFlagThenReg_iter (s : State) (f : Byte) (x : Reg) (b : Byte) : (s.setFlagThenReg f x b).iter = s.iter := rfl
@[simp] theorem State.setFlagThenReg_rand (s : State) (f : Byte) (x : Reg) (b : Byte) : (s.setFlagThenReg f x b).rand = s.rand := rfl
@[simp] theorem State.setFlagThenReg_loaded (s : State) (f : Byte) (x : Reg) (b : Byte) : (s.setFlagThenReg f x b).loaded = s.loaded := rfl

@[simp] theorem State.memWrite_v (s : State) (a : Nat) (b : Byte) : (s.memWrite a b).v = s.v := rfl
@[simp] theorem State.memWrite_i (s : State) (a : Nat) (b : Byte) : (s.memWrite a b).i = s.i := rfl
@[simp] theorem State.memWrite_pc (s : State) (a : Nat) (b : Byte) : (s.memWrite a b).pc = s.pc := rfl
@[simp] theorem State.memWrite_dt (s : State) (a : Nat) (b : Byte) : (s.memWrite a b).dt = s.dt := rfl
@[simp] theorem State.memWrite_st (s : State) (a : Nat) (b : Byte) : (s.memWrite a b).st = s.st := rfl
@[simp] theorem State.memWrite_stack (s : State) (a : Nat) (b : Byte) : (s.memWrite a b).stack = s.stack := rfl
@[simp] theorem State.memWrite_key (s : State) (a : Nat) (b : Byte) : (s.memWrite a b).key = s.key := rfl
@[simp] theorem State.memWrite_fb (s : State) (a : Nat) (b : Byte) : (s.memWrite a b).fb = s.fb := rfl
@[simp] theorem State.memWrite_running (s : State) (a : Nat) (b : Byte) : (s.memWrite a b).running = s.running := rfl
@[simp] theorem State.memWrite_fault (s : State) (a : Nat) (b : Byte) : (s.memWrite a b).fault = s.fault := rfl
@[simp] theorem State.memWrite_fbUpdated (s : State) (a : Nat) (b : Byte) : (s.memWrite a b).fbUpdated = s.fbUpdated := rfl
@[simp] theorem State.memWrite_cfg (s : State) (a : Nat) (b : Byte) : (s.memWrite a b).cfg = s.cfg := rfl
@[simp] theorem State.memWrite_env (s : State) (a : Nat) (b : Byte) : (s.memWrite a b).env = s.env := rfl
@[simp] theorem State.memWrite_iter (s : State) (a : Nat) (b : Byte) : (s.memWrite a b).iter = s.iter := rfl
@[simp] theorem State.memWrite_rand (s : State) (a : Nat) (b : Byte) : (s.memWrite a b).rand = s.rand := rfl
@[simp] theorem State.memWrite_loaded (s : State) (a : Nat) (b : Byte) : (s.memWrite a b).loaded = s.loaded := rfl

@[simp] theorem State.setIndex_v (s : State) (a : Word) : (s.setIndex a).v = s.v := rfl
@[simp] theorem State.setIndex_pc (s : State) (a : Word) : (s.setIndex a).pc = s.pc := rfl
@[simp] theorem State.setIndex_dt (s : State) (a : Word) : (s.setIndex a).dt = s.dt := rfl
@[simp] theorem State.setIndex_st (s : State) (a : Word) : (s.setIndex a).st = s.st := rfl
@[simp] theorem State.setIndex_stack (s : State) (a : Word) : (s.setIndex a).stack = s.stack := rfl
@[simp] theorem State.setIndex_key (s : State) (a : Word) : (s.setIndex a).key = s.key := rfl
@[simp] theorem State.setIndex_mem (s : State) (a : Word) : (s.setIndex a).mem = s.mem := rfl
@[simp] theorem State.setIndex_fb (s : State) (a : Word) : (s.setIndex a).fb = s.fb := rfl
@[simp] theorem State.setIndex_running (s : State) (a : Word) : (s.setIndex a).running = s.running := rfl
@[simp] theorem State.setIndex_fault (s : State) (a : Word) : (s.setIndex a).fault = s.fault := rfl
@[simp] theorem State.setIndex_fbUpdated (s : State) (a : Word) : (s.setIndex a).fbUpdated = s.fbUpdated := rfl
@[simp] theorem State.setIndex_cfg (s : State) (a : Word) : (s.setIndex a).cfg = s.cfg := rfl
@[simp] theorem State.setIndex_env (s : State) (a : Word) : (s.setIndex a).env = s.env := rfl
@[simp] theorem State.setIndex_iter (s : State) (a : Word) : (s.setIndex a).iter = s.iter := rfl
@[simp] theorem State.setIndex_rand (s : State) (a : Word) : (s.setIndex a).rand = s.rand := rfl
@[simp] theorem State.setIndex_loaded (s : State) (a : Word) : (s.setIndex a).loaded = s.loaded := rfl

@[simp] theorem State.setDelay_v (s : State) (b : Byte) : (s.setDelay b).v = s.v := rfl
@[simp] theorem State.setDelay_i (s : State) (b : Byte) : (s.setDelay b).i = s.i := rfl
@[simp] theorem State.setDelay_pc (s : State) (b : Byte) : (s.setDelay b).pc = s.pc := rfl
@[simp] theorem State.setDelay_st (s : State) (b : Byte) : (s.setDelay b).st = s.st := rfl
@[simp] theorem State.setDelay_stack (s : State) (b : Byte) : (s.setDelay b).stack = s.stack := rfl
@[simp] theorem State.setDelay_key (s : State) (b : Byte) : (s.setDelay b).key = s.key := rfl
@[simp] theorem State.setDelay_mem (s : State) (b : Byte) : (s.setDelay b).mem = s.mem := rfl
@[simp] theorem State.setDelay_fb (s : State) (b : Byte) : (s.setDelay b).fb = s.fb := rfl
@[simp] theorem State.setDelay_running (s : State) (b : Byte) : (s.setDelay b).running = s.running := rfl
@[simp] theorem State.setDelay_fault (s : State) (b : Byte) : (s.setDelay b).fault = s.fault := rfl
@[simp] theorem State.setDelay_fbUpdated (s : State) (b : Byte) : (s.setDelay b).fbUpdated = s.fbUpdated := rfl
@[simp] theorem State.setDelay_cfg (s : State) (b : Byte) : (s.setDelay b).cfg = s.cfg := rfl
@[simp] theorem State.setDelay_env (s : State) (b : Byte) : (s.setDelay b).env = s.env := rfl
@[simp] theorem State.setDelay_iter (s : State) (b : Byte) : (s.setDelay b).iter = s.iter := rfl
@[simp] theorem State.setDelay_rand (s : State) (b : Byte) : (s.setDelay b).rand = s.rand := rfl
@[simp] theorem State.setDelay_loaded (s : State) (b : Byte) : (s.setDelay b).loaded = s.loaded := rfl

@[simp] theorem State.setSound_v (s : State) (b : Byte) : (s.setSound b).v = s.v := rfl
@[simp] theorem State.setSound_i (s : State) (b : Byte) : (s.setSound b).i = s.i := rfl
@[simp] theorem State.setSound_pc (s : State) (b : Byte) : (s.setSound b).pc = s.pc := rfl
@[simp] theorem State.setSound_dt (s : State) (b : Byte) : (s.setSound b).dt = s.dt := rfl
@[simp] theorem State.setSound_stack (s : State) (b : Byte) : (s.setSound b).stack = s.stack := rfl
@[simp] theorem State.setSound_key (s : State) (b : Byte) : (s.setSound b).key = s.key := rfl
@[simp] theorem State.setSound_mem (s : State) (b : Byte) : (s.setSound b).mem = s.mem := rfl
@[simp] theorem State.setSound_fb (s : State) (b : Byte) : (s.setSound b).fb = s.fb := rfl
@[simp] theorem State.setSound_running (s : State) (b : Byte) : (s.setSound b).running = s.running := rfl
@[simp] theorem State.setSound_fault (s : State) (b : Byte) : (s.setSound b).fault = s.fault := rfl
@[simp] theorem State.setSound_fbUpdated (s : State) (b : Byte) : (s.setSound b).fbUpdated = s.fbUpdated := rfl
@[simp] theorem State.setSound_cfg (s : State) (b : Byte) : (s.setSound b).cfg = s.cfg := rfl
@[simp] theorem State.setSound_env (s : State) (b : Byte) : (s.setSound b).env = s.env := rfl
@[simp] theorem State.setSound_iter (s : State) (b : Byte) : (s.setSound b).iter = s.iter := rfl
@[simp] theorem State.setSound_rand (s : State) (b : Byte) : (s.setSound b).rand = s.rand := rfl
@[simp] theorem State.setSound_loaded (s : State) (b : Byte) : (s.setSound b).loaded = s.loaded := rfl

@[simp] theorem State.setFb_v (s : State) (fb : Vector Byte 256) : (s.setFb fb).v = s.v := rfl
@[simp] theorem State.setFb_i (s : State) (fb : Vector Byte 256) : (s.setFb fb).i = s.i := rfl
@[simp] theorem State.setFb_pc (s : State) (fb : Vector Byte 256) : (s.setFb fb).pc = s.pc := rfl
@[simp] theorem State.setFb_dt (s : State) (fb : Vector Byte 256) : (s.setFb fb).dt = s.dt := rfl
@[simp] theorem State.setFb_st (s : State) (fb : Vector Byte 256) : (s.setFb fb).st = s.st := rfl
@[simp] theorem State.setFb_stack (s : State) (fb : Vector Byte 256) : (s.setFb fb).stack = s.stack := rfl
@[simp] theorem State.setFb_key (s : State) (fb : Vector Byte 256) : (s.setFb fb).key = s.key := rfl
@[simp] theorem State.setFb_mem (s : State) (fb : Vector Byte 256) : (s.setFb fb).mem = s.mem := rfl
@[simp] theorem State.setFb_running (s : State) (fb : Vector Byte 256) : (s.setFb fb).running = s.running := rfl
@[simp] theorem State.setFb_fault (s : State) (fb : Vector Byte 256) : (s.setFb fb).fault = s.fault := rfl
@[simp] theorem State.setFb_fbUpdated (s : State) (fb : Vector Byte 256) : (s.setFb fb).fbUpdated = s.fbUpdated := rfl
@[simp] theorem State.setFb_cfg (s : State) (fb : Vector Byte 256) : (s.setFb fb).cfg = s.cfg := rfl
@[simp] theorem State.setFb_env (s : State) (fb : Vector Byte 256) : (s.setFb fb).env = s.env := rfl
@[simp] theorem State.setFb_iter (s : State) (fb : Vector Byte 256) : (s.setFb fb).iter = s.iter := rfl
@[simp] theorem State.setFb_rand (s : State) (fb : Vector Byte 256) : (s.setFb fb).rand = s.rand := rfl
@[simp] theorem State.setFb_loaded (s : State) (fb : Vector Byte 256) : (s.setFb fb).loaded = s.loaded := rfl

@[simp] theorem State.setStack_v (s : State) (st : List Word) : (s.setStack st).v = s.v := rfl
@[simp] theorem State.setStack_i (s : State) (st : List Word) : (s.setStack st).i = s.i := rfl
@[simp] theorem State.setStack_pc (s : State) (st : List Word) : (s.setStack st).pc = s.pc := rfl
@[simp] theorem State.setStack_dt (s : State) (st : List Word) : (s.setStack st).dt = s.dt := rfl
@[simp] theorem State.setStack_st (s : State) (st : List Word) : (s.setStack st).st = s.st := rfl
@[simp] theorem State.setStack_key (s : State) (st : List Word) : (s.setStack st).key = s.key := rfl
@[simp] theorem State.setStack_mem (s : State) (st : List Word) : (s.setStack st).mem = s.mem := rfl
@[simp] theorem State.setStack_fb (s : State) (st : List Word) : (s.setStack st).fb = s.fb := rfl
@[simp] theorem State.setStack_running (s : State) (st : List Word) : (s.setStack st).running = s.running := rfl
@[simp] theorem State.setStack_fault (s : State) (st : List Word) : (s.setStack st).fault = s.fault := rfl
@[simp] theorem State.setStack_fbUpdated (s : State) (st : List Word) : (s.setStack st).fbUpdated = s.fbUpdated := rfl
@[simp] theorem State.setStack_cfg (s : State) (st : List Word) : (s.setStack st).cfg = s.cfg := rfl
@[simp] theorem State.setStack_env (s : State) (st : List Word) : (s.setStack st).env = s.env := rfl
@[simp] theorem State.setStack_iter (s : State) (st : List Word) : (s.setStack st).iter = s.iter := rfl
@[simp] theorem State.setStack_rand (s : State) (st : List Word) : (s.setStack st).rand = s.rand := rfl
@[simp] theorem State.setStack_loaded (s : State) (st : List Word) : (s.setStack st).loaded = s.loaded := rfl

@[simp] theorem State.finish_v (s : State) (o : PcOutcome) (drew : Bool) : (s.finish o drew).v = s.v := rfl
@[simp] theorem State.finish_i (s : State) (o : PcOutcome) (drew : Bool) : (s.finish o drew).i = s.i := rfl
@[simp] theorem State.finish_dt (s : State) (o : PcOutcome) (drew : Bool) : (s.finish o drew).dt = s.dt := rfl
@[simp] theorem State.finish_st (s : State) (o : PcOutcome) (drew : Bool) : (s.finish o drew).st = s.st := rfl
@[simp] theorem State.finish_stack (s : State) (o : PcOutcome) (drew : Bool) : (s.finish o drew).stack = s.stack := rfl
@[simp] theorem State.finish_key (s : State) (o : PcOutcome) (drew : Bool) : (s.finish o drew).key = s.key := rfl
@[simp] theorem State.finish_mem (s : State) (o : PcOutcome) (drew : Bool) : (s.finish o drew).mem = s.mem := rfl
@[simp] theorem State.finish_fb (s : State) (o : PcOutcome) (drew : Bool) : (s.finish o drew).fb = s.fb := rfl
@[simp] theorem State.finish_running (s : State) (o : PcOutcome) (drew : Bool) : (s.finish o drew).running = s.running := rfl
@[simp] theorem State.finish_fault (s : State) (o : PcOutcome) (drew : Bool) : (s.finish o drew).fault = s.fault := rfl
@[simp] theorem State.finish_cfg (s : State) (o : PcOutcome) (drew : Bool) : (s.finish o drew).cfg = s.cfg := rfl
@[simp] theorem State.finish_env (s : State) (o : PcOutcome) (drew : Bool) : (s.finish o drew).env = s.env := rfl
@[simp] theorem State.finish_iter (s : State) (o : PcOutcome) (drew : Bool) : (s.finish o drew).iter = s.iter := rfl
@[simp] theorem State.finish_rand (s : State) (o : PcOutcome) (drew : Bool) : (s.finish o drew).rand = s.rand := rfl
@[simp] theorem State.finish_loaded (s : State) (o : PcOutcome) (drew : Bool) : (s.finish o drew).loaded = s.loaded := rfl

@[simp] theorem State.takeFault_v (s : State) (r : FaultReason) (w : Word) : (s.takeFault r w).v = s.v := rfl
@[simp] theorem State.takeFault_i (s : State) (r : FaultReason) (w : Word) : (s.takeFault r w).i = s.i := rfl
@[simp] theorem State.takeFault_pc (s : State) (r : FaultReason) (w : Word) : (s.takeFault r w).pc = s.pc := rfl
@[simp] theorem State.takeFault_dt (s : State) (r : FaultReason) (w : Word) : (s.takeFault r w).dt = s.dt := rfl
@[simp] theorem State.takeFault_st (s : State) (r : FaultReason) (w : Word) : (s.takeFault r w).st = s.st := rfl
@[simp] theorem State.takeFault_stack (s : State) (r : FaultReason) (w : Word) : (s.takeFault r w).stack = s.stack := rfl
@[simp] theorem State.takeFault_key (s : State) (r : FaultReason) (w : Word) : (s.takeFault r w).key = s.key := rfl
@[simp] theorem State.takeFault_mem (s : State) (r : FaultReason) (w : Word) : (s.takeFault r w).mem = s.mem := rfl
@[simp] theorem State.takeFault_fb (s : State) (r : FaultReason) (w : Word) : (s.takeFault r w).fb = s.fb := rfl
@[simp] theorem State.takeFault_running (s : State) (r : FaultReason) (w : Word) : (s.takeFault r w).running = s.running := rfl
@[simp] theorem State.takeFault_cfg (s : State) (r : FaultReason) (w : Word) : (s.takeFault r w).cfg = s.cfg := rfl
@[simp] theorem State.takeFault_env (s : State) (r : FaultReason) (w : Word) : (s.takeFault r w).env = s.env := rfl
@[simp] theorem State.takeFault_iter (s : State) (r : FaultReason) (w : Word) : (s.takeFault r w).iter = s.iter := rfl
@[simp] theorem State.takeFault_rand (s : State) (r : FaultReason) (w : Word) : (s.takeFault r w).rand = s.rand := rfl
@[simp] theorem State.takeFault_loaded (s : State) (r : FaultReason) (w : Word) : (s.takeFault r w).loaded = s.loaded := rfl

@[simp] theorem State.keySet_v (s : State) (k : Fin 16) (b : Bool) : (s.keySet k b).v = s.v := rfl
@[simp] theorem State.keySet_i (s : State) (k : Fin 16) (b : Bool) : (s.keySet k b).i = s.i := rfl
@[simp] theorem State.keySet_pc (s : State) (k : Fin 16) (b : Bool) : (s.keySet k b).pc = s.pc := rfl
@[simp] theorem State.keySet_dt (s : State) (k : Fin 16) (b : Bool) : (s.keySet k b).dt = s.dt := rfl
@[simp] theorem State.keySet_st (s : State) (k : Fin 16) (b : Bool) : (s.keySet k b).st = s.st := rfl
@[simp] theorem State.keySet_stack (s : State) (k : Fin 16) (b : Bool) : (s.keySet k b).stack = s.stack := rfl
@[simp] theorem State.keySet_mem (s : State) (k : Fin 16) (b : Bool) : (s.keySet k b).mem = s.mem := rfl
@[simp] theorem State.keySet_fb (s : State) (k : Fin 16) (b : Bool) : (s.keySet k b).fb = s.fb := rfl
@[simp] theorem State.keySet_running (s : State) (k : Fin 16) (b : Bool) : (s.keySet k b).running = s.running := rfl
@[simp] theorem State.keySet_fault (s : State) (k : Fin 16) (b : Bool) : (s.keySet k b).fault = s.fault := rfl
@[simp] theorem State.keySet_fbUpdated (s : State) (k : Fin 16) (b : Bool) : (s.keySet k b).fbUpdated = s.fbUpdated := rfl
@[simp] theorem State.keySet_cfg (s : State) (k : Fin 16) (b : Bool) : (s.keySet k b).cfg = s.cfg := rfl
@[simp] theorem State.keySet_env (s : State) (k : Fin 16) (b : Bool) : (s.keySet k b).env = s.env := rfl
@[simp] theorem State.keySet_iter (s : State) (k : Fin 16) (b : Bool) : (s.keySet k b).iter = s.iter := rfl
@[simp] theorem State.keySet_rand (s : State) (k : Fin 16) (b : Bool) : (s.keySet k b).rand = s.rand := rfl
@[simp] theorem State.keySet_loaded (s : State) (k : Fin 16) (b : Bool) : (s.keySet k b).loaded = s.loaded := rfl

@[simp] theorem State.keyClearAll_v (s : State) : (s.keyClearAll).v = s.v := rfl
@[simp] theorem State.keyClearAll_i (s : State) : (s.keyClearAll).i = s.i := rfl
@[simp] theorem State.keyClearAll_pc (s : State) : (s.keyClearAll).pc = s.pc := rfl
@[simp] theorem State.keyClearAll_dt (s : State) : (s.keyClearAll).dt = s.dt := rfl
@[simp] theorem State.keyClearAll_st (s : State) : (s.keyClearAll).st = s.st := rfl
@[simp] theorem State.keyClearAll_stack (s : State) : (s.keyClearAll).stack = s.stack := rfl
@[simp] theorem State.keyClearAll_mem (s : State) : (s.keyClearAll).mem = s.mem := rfl
@[simp] theorem State.keyClearAll_fb (s : State) : (s.keyClearAll).fb = s.fb := rfl
@[simp] theorem State.keyClearAll_running (s : State) : (s.keyClearAll).running = s.running := rfl
@[simp] theorem State.keyClearAll_fault (s : State) : (s.keyClearAll).fault = s.fault := rfl
@[simp] theorem State.keyClearAll_fbUpdated (s : State) : (s.keyClearAll).fbUpdated = s.fbUpdated := rfl
@[simp] theorem State.keyClearAll_cfg (s : State) : (s.keyClearAll).cfg = s.cfg := rfl
@[simp] theorem State.keyClearAll_env (s : State) : (s.keyClearAll).env = s.env := rfl
@[simp] theorem State.keyClearAll_iter (s : State) : (s.keyClearAll).iter = s.iter := rfl
@[simp] theorem State.keyClearAll_rand (s : State) : (s.keyClearAll).rand = s.rand := rfl
@[simp] theorem State.keyClearAll_loaded (s : State) : (s.keyClearAll).loaded = s.loaded := rfl

@[simp] theorem State.quit_v (s : State) : (s.quit).v = s.v := rfl
@[simp] theorem State.quit_i (s : State) : (s.quit).i = s.i := rfl
@[simp] theorem State.quit_pc (s : State) : (s.quit).pc = s.pc := rfl
@[simp] theorem State.quit_dt (s : State) : (s.quit).dt = s.dt := rfl
@[simp] theorem State.quit_st (s : State) : (s.quit).st = s.st := rfl
@[simp] theorem State.quit_stack (s : State) : (s.quit).stack = s.stack := rfl
@[simp] theorem State.quit_key (s : State) : (s.quit).key = s.key := rfl
@[simp] theorem State.quit_mem (s : State) : (s.quit).mem = s.mem := rfl
@[simp] theorem State.quit_fb (s : State) : (s.quit).fb = s.fb := rfl
@[simp] theorem State.quit_fault (s : State) : (s.quit).fault = s.fault := rfl
@[simp] theorem State.quit_fbUpdated (s : State) : (s.quit).fbUpdated = s.fbUpdated := rfl
@[simp] theorem State.quit_cfg (s : State) : (s.quit).cfg = s.cfg := rfl
@[simp] theorem State.quit_env (s : State) : (s.quit).env = s.env := rfl
@[simp] theorem State.quit_iter (s : State) : (s.quit).iter = s.iter := rfl
@[simp] theorem State.quit_rand (s : State) : (s.quit).rand = s.rand := rfl
@[simp] theorem State.quit_loaded (s : State) : (s.quit).loaded = s.loaded := rfl

@[simp] theorem State.decay_v (s : State) (tick : Bool) : (s.decay tick).v = s.v := rfl
@[simp] theorem State.decay_i (s : State) (tick : Bool) : (s.decay tick).i = s.i := rfl
@[simp] theorem State.decay_pc (s : State) (tick : Bool) : (s.decay tick).pc = s.pc := rfl
@[simp] theorem State.decay_stack (s : State) (tick : Bool) : (s.decay tick).stack = s.stack := rfl
@[simp] theorem State.decay_key (s : State) (tick : Bool) : (s.decay tick).key = s.key := rfl
@[simp] theorem State.decay_mem (s : State) (tick : Bool) : (s.decay tick).mem = s.mem := rfl
@[simp] theorem State.decay_fb (s : State) (tick : Bool) : (s.decay tick).fb = s.fb := rfl
@[simp] theorem State.decay_running (s : State) (tick : Bool) : (s.decay tick).running = s.running := rfl
@[simp] theorem State.decay_fault (s : State) (tick : Bool) : (s.decay tick).fault = s.fault := rfl
@[simp] theorem State.decay_fbUpdated (s : State) (tick : Bool) : (s.decay tick).fbUpdated = s.fbUpdated := rfl
@[simp] theorem State.decay_cfg (s : State) (tick : Bool) : (s.decay tick).cfg = s.cfg := rfl
@[simp] theorem State.decay_env (s : State) (tick : Bool) : (s.decay tick).env = s.env := rfl
@[simp] theorem State.decay_iter (s : State) (tick : Bool) : (s.decay tick).iter = s.iter := rfl
@[simp] theorem State.decay_rand (s : State) (tick : Bool) : (s.decay tick).rand = s.rand := rfl
@[simp] theorem State.decay_loaded (s : State) (tick : Bool) : (s.decay tick).loaded = s.loaded := rfl

@[simp] theorem State.markLoaded_v (s : State) : (s.markLoaded).v = s.v := rfl
@[simp] theorem State.markLoaded_i (s : State) : (s.markLoaded).i = s.i := rfl
@[simp] theorem State.markLoaded_pc (s : State) : (s.markLoaded).pc = s.pc := rfl
@[simp] theorem State.markLoaded_dt (s : State) : (s.markLoaded).dt = s.dt := rfl
@[simp] theorem State.markLoaded_st (s : State) : (s.markLoaded).st = s.st := rfl
@[simp] theorem State.markLoaded_stack (s : State) : (s.markLoaded).stack = s.stack := rfl
@[simp] theorem State.markLoaded_key (s : State) : (s.markLoaded).key = s.key := rfl
@[simp] theorem State.markLoaded_mem (s : State) : (s.markLoaded).mem = s.mem := rfl
@[simp] theorem State.markLoaded_fb (s : State) : (s.markLoaded).fb = s.fb := rfl
@[simp] theorem State.markLoaded_running (s : State) : (s.markLoaded).running = s.running := rfl
@[simp] theorem State.markLoaded_fault (s : State) : (s.markLoaded).fault = s.fault := rfl
@[simp] theorem State.markLoaded_fbUpdated (s : State) : (s.markLoaded).fbUpdated = s.fbUpdated := rfl
@[simp] theorem State.markLoaded_cfg (s : State) : (s.markLoaded).cfg = s.cfg := rfl
@[simp] theorem State.markLoaded_env (s : State) : (s.markLoaded).env = s.env := rfl
@[simp] theorem State.markLoaded_iter (s : State) : (s.markLoaded).iter = s.iter := rfl
@[simp] theorem State.markLoaded_rand (s : State) : (s.markLoaded).rand = s.rand := rfl

@[simp] theorem State.setRegs_i (s : State) (j : Nat) (bs : List Byte) : (s.setRegs j bs).i = s.i := by
  induction bs generalizing s j with
  | nil => rfl
  | cons c bs ih => simp [State.setRegs, ih]
@[simp] theorem State.setRegs_pc (s : State) (j : Nat) (bs : List Byte) : (s.setRegs j bs).pc = s.pc := by
  induction bs generalizing s j with
  | nil => rfl
  | cons c bs ih => simp [State.setRegs, ih]
@[simp] theorem State.setRegs_dt (s : State) (j : Nat) (bs : List Byte) : (s.setRegs j bs).dt = s.dt := by
  induction bs generalizing s j with
  | nil => rfl
  | cons c bs ih => simp [State.setRegs, ih]
@[simp] theorem State.setRegs_st (s : State) (j : Nat) (bs : List Byte) : (s.setRegs j bs).st = s.st := by
  induction bs generalizing s j with
  | nil => rfl
  | cons c bs ih => simp [State.setRegs, ih]
@[simp] theorem State.setRegs_stack (s : State) (j : Nat) (bs : List Byte) : (s.setRegs j bs).stack = s.stack := by
  induction bs generalizing s j with
  | nil => rfl
  | cons c bs ih => simp [State.setRegs, ih]
@[simp] theorem State.setRegs_key (s : State) (j : Nat) (bs : List Byte) : (s.setRegs j bs).key = s.key := by
  induction bs generalizing s j with
  | nil => rfl
  | cons c bs ih => simp [State.setRegs, ih]
@[simp] theorem State.setRegs_mem (s : State) (j : Nat) (bs : List Byte) : (s.setRegs j bs).mem = s.mem := by
  induction bs generalizing s j with
  | nil => rfl
  | cons c bs ih => simp [State.setRegs, ih]
@[simp] theorem State.setRegs_fb (s : State) (j : Nat) (bs : List Byte) : (s.setRegs j bs).fb = s.fb := by
  induction bs generalizing s j with
  | nil => rfl
  | cons c bs ih => simp [State.setRegs, ih]
@[simp] theorem State.setRegs_running (s : State) (j : Nat) (bs : List Byte) : (s.setRegs j bs).running = s.running := by
  induction bs generalizing s j with
  | nil => rfl
  | cons c bs ih => simp [State.setRegs, ih]
@[simp] theorem State.setRegs_fault (s : State) (j : Nat) (bs : List Byte) : (s.setRegs j bs).fault = s.fault := by
  induction bs generalizing s j with
  | nil => rfl
  | cons c bs ih => simp [State.setRegs, ih]
@[simp] theorem State.setRegs_fbUpdated (s : State) (j : Nat) (bs : List Byte) : (s.setRegs j bs).fbUpdated = s.fbUpdated := by
  induction bs generalizing s j with
  | nil => rfl
  | cons c bs ih => simp [State.setRegs, ih]
@[simp] theorem State.setRegs_cfg (s : State) (j : Nat) (bs : List Byte) : (s.setRegs j bs).cfg = s.cfg := by
  induction bs generalizing s j with
  | nil => rfl
  | cons c bs ih => simp [State.setRegs, ih]
@[simp] theorem State.setRegs_env (s : State) (j : Nat) (bs : List Byte) : (s.setRegs j bs).env = s.env := by
  induction bs generalizing s j with
  | nil => rfl
  | cons c bs ih => simp [State.setRegs, ih]
@[simp] theorem State.setRegs_iter (s : State) (j : Nat) (bs : List Byte) : (s.setRegs j bs).iter = s.iter := by
  induction bs generalizing s j with
  | nil => rfl
  | cons c bs ih => simp [State.setRegs, ih]
@[simp] theorem State.setRegs_rand (s : State) (j : Nat) (bs : List Byte) : (s.setRegs j bs).rand = s.rand := by
  induction bs generalizing s j with
  | nil => rfl
  | cons c bs ih => simp [State.setRegs, ih]
@[simp] theorem State.setRegs_loaded (s : State) (j : Nat) (bs : List Byte) : (s.setRegs j bs).loaded = s.loaded := by
  induction bs generalizing s j with
  | nil => rfl
  | cons c bs ih => simp [State.setRegs, ih]

@[simp] theorem State.memWriteBytes_v (s : State) (a : Nat) (bs : List Byte) : (s.memWriteBytes a bs).v = s.v := by
  induction bs generalizing s a with
  | nil => rfl
  | cons c bs ih => simp [State.memWriteBytes, ih]
@[simp] theorem State.memWriteBytes_i (s : State) (a : Nat) (bs : List Byte) : (s.memWriteBytes a bs).i = s.i := by
  induction bs generalizing s a with
  | nil => rfl
  | cons c bs ih => simp [State.memWriteBytes, ih]
@[simp] theorem State.memWriteBytes_pc (s : State) (a : Nat) (bs : List Byte) : (s.memWriteBytes a bs).pc = s.pc := by
  induction bs generalizing s a with
  | nil => rfl
  | cons c bs ih => simp [State.memWriteBytes, ih]
@[simp] theorem State.memWriteBytes_dt (s : State) (a : Nat) (bs : List Byte) : (s.memWriteBytes a bs).dt = s.dt := by
  induction bs generalizing s a with
  | nil => rfl
  | cons c bs ih => simp [State.memWriteBytes, ih]
@[simp] theorem State.memWriteBytes_st (s : State) (a : Nat) (bs : List Byte) : (s.memWriteBytes a bs).st = s.st := by
  induction bs generalizing s a with
  | nil => rfl
  | cons c bs ih => simp [State.memWriteBytes, ih]
@[simp] theorem State.memWriteBytes_stack (s : State) (a : Nat) (bs : List Byte) : (s.memWriteBytes a bs).stack = s.stack := by
  induction bs generalizing s a with
  | nil => rfl
  | cons c bs ih => simp [State.memWriteBytes, ih]
@[simp] theorem State.memWriteBytes_key (s : State) (a : Nat) (bs : List Byte) : (s.memWriteBytes a bs).key = s.key := by
  induction bs generalizing s a with
  | nil => rfl
  | cons c bs ih => simp [State.memWriteBytes, ih]
@[simp] theorem State.memWriteBytes_fb (s : State) (a : Nat) (bs : List Byte) : (s.memWriteBytes a bs).fb = s.fb := by
  induction bs generalizing s a with
  | nil => rfl
  | cons c bs ih => simp [State.memWriteBytes, ih]
@[simp] theorem State.memWriteBytes_running (s : State) (a : Nat) (bs : List Byte) : (s.memWriteBytes a bs).running = s.running := by
  induction bs generalizing s a with
  | nil => rfl
  | cons c bs ih => simp [State.memWriteBytes, ih]
@[simp] theorem State.memWriteBytes_fault (s : State) (a : Nat) (bs : List Byte) : (s.memWriteBytes a bs).fault = s.fault := by
  induction bs generalizing s a with
  | nil => rfl
  | cons c bs ih => simp [State.memWriteBytes, ih]
@[simp] theorem State.memWriteBytes_fbUpdated (s : State) (a : Nat) (bs : List Byte) : (s.memWriteBytes a bs).fbUpdated = s.fbUpdated := by
  induction bs generalizing s a with
  | nil => rfl
  | cons c bs ih => simp [State.memWriteBytes, ih]
@[simp] theorem State.memWriteBytes_cfg (s : State) (a : Nat) (bs : List Byte) : (s.memWriteBytes a bs).cfg = s.cfg := by
  induction bs generalizing s a with
  | nil => rfl
  | cons c bs ih => simp [State.memWriteBytes, ih]
@[simp] theorem State.memWriteBytes_env (s : State) (a : Nat) (bs : List Byte) : (s.memWriteBytes a bs).env = s.env := by
  induction bs generalizing s a with
  | nil => rfl
  | cons c bs ih => simp [State.memWriteBytes, ih]
@[simp] theorem State.memWriteBytes_iter (s : State) (a : Nat) (bs : List Byte) : (s.memWriteBytes a bs).iter = s.iter := by
  induction bs generalizing s a with
  | nil => rfl
  | cons c bs ih => simp [State.memWriteBytes, ih]
@[simp] theorem State.memWriteBytes_rand (s : State) (a : Nat) (bs : List Byte) : (s.memWriteBytes a bs).rand = s.rand := by
  induction bs generalizing s a with
  | nil => rfl
  | cons c bs ih => simp [State.memWriteBytes, ih]
@[simp] theorem State.memWriteBytes_loaded (s : State) (a : Nat) (bs : List Byte) : (s.memWriteBytes a bs).loaded = s.loaded := by
  induction bs generalizing s a with
  | nil => rfl
  | cons c bs ih => simp [State.memWriteBytes, ih]

/-! The values the updates leave in the fields they write. -/

@[simp] theorem State.quit_running (s : State) : s.quit.running = false := rfl
@[simp] theorem State.keyClearAll_key (s : State) : s.keyClearAll.key = Vector.replicate 16 false := rfl
@[simp] theorem State.markLoaded_loaded (s : State) : s.markLoaded.loaded = true := rfl
@[simp] theorem State.keySet_key (s : State) (k : Fin 16) (b : Bool) :
    (s.keySet k b).key = s.key.set k.val b k.isLt := rfl
@[simp] theorem State.decay_dt (s : State) (tick : Bool) : (s.decay tick).dt = decayTimer tick s.dt := rfl
@[simp] theorem State.decay_st (s : State) (tick : Bool) : (s.decay tick).st = decayTimer tick s.st := rfl
@[simp] theorem State.memWrite_mem (s : State) (a : Nat) (b : Byte) :
    (s.memWrite a b).mem = Memory.write s.cfg.font s.mem (a % 4096) b := rfl

@[simp] theorem State.setIndex_i (s : State) (a : Word) : (s.setIndex a).i = a := rfl
@[simp] theorem State.setDelay_dt (s : State) (b : Byte) : (s.setDelay b).dt = b := rfl
@[simp] theorem State.setSound_st (s : State) (b : Byte) : (s.setSound b).st = b := rfl
@[simp] theorem State.setFb_fb (s : State) (fb : Vector Byte 256) : (s.setFb fb).fb = fb := rfl
@[simp] theorem State.setStack_stack (s : State) (st : List Word) : (s.setStack st).stack = st := rfl
@[simp] theorem State.finish_pc (s : State) (o : PcOutcome) (drew : Bool) :
    (s.finish o drew).pc = nextPc s.pc o := rfl
@[simp] theorem State.finish_fbUpdated (s : State) (o : PcOutcome) (drew : Bool) :
    (s.finish o drew).fbUpdated = drew := rfl
@[simp] theorem State.takeFault_fault (s : State) (r : FaultReason) (w : Word) :
    (s.takeFault r w).fault = some { reason := r, pc := s.pc, word := w } := rfl
@[simp] theorem State.takeFault_fbUpdated (s : State) (r : FaultReason) (w : Word) :
    (s.takeFault r w).fbUpdated = false := rfl

/-! What the updates leave of the reads of a register and of a byte of memory. -/

@[simp] theorem State.memRead_setReg (s : State) (x : Reg) (b : Byte) (c : Nat) : (s.setReg x b).memRead c = s.memRead c := rfl
@[simp] theorem State.memRead_setFlagThenReg (s : State) (f : Byte) (x : Reg) (b : Byte) (c : Nat) : (s.setFlagThenReg f x b).memRead c = s.memRead c := rfl
@[simp] theorem State.reg_memWrite (s : State) (a : Nat) (b : Byte) (x : Reg) : (s.memWrite a b).reg x = s.reg x := rfl
@[simp] theorem State.reg_setIndex (s : State) (a : Word) (x : Reg) : (s.setIndex a).reg x = s.reg x := rfl
@[simp] theorem State.memRead_setIndex (s : State) (a : Word) (c : Nat) : (s.setIndex a).memRead c = s.memRead c := rfl
@[simp] theorem State.reg_setDelay (s : State) (b : Byte) (x : Reg) : (s.setDelay b).reg x = s.reg x := rfl
@[simp] theorem State.memRead_setDelay (s : State) (b : Byte) (c : Nat) : (s.setDelay b).memRead c = s.memRead c := rfl
@[simp] theorem State.reg_setSound (s : State) (b : Byte) (x : Reg) : (s.setSound b).reg x = s.reg x := rfl
@[simp] theorem State.memRead_setSound (s : State) (b : Byte) (c : Nat) : (s.setSound b).memRead c = s.memRead c := rfl
@[simp] theorem State.reg_setFb (s : State) (fb : Vector Byte 256) (x : Reg) : (s.setFb fb).reg x = s.reg x := rfl
@[simp] theorem State.memRead_setFb (s : State) (fb : Vector Byte 256) (c : Nat) : (s.setFb fb).memRead c = s.memRead c := rfl
@[simp] theorem State.reg_setStack (s : State) (st : List Word) (x : Reg) : (s.setStack st).reg x = s.reg x := rfl
@[simp] theorem State.memRead_setStack (s : State) (st : List Word) (c : Nat) : (s.setStack st).memRead c = s.memRead c := rfl
@[simp] theorem State.reg_finish (s : State) (o : PcOutcome) (drew : Bool) (x : Reg) : (s.finish o drew).reg x = s.reg x := rfl
@[simp] theorem State.memRead_finish (s : State) (o : PcOutcome) (drew : Bool) (c : Nat) : (s.finish o drew).memRead c = s.memRead c := rfl
@[simp] theorem State.reg_takeFault (s : State) (r : FaultReason) (w : Word) (x : Reg) : (s.takeFault r w).reg x = s.reg x := rfl
@[simp] theorem State.memRead_takeFault (s : State) (r : FaultReason) (w : Word) (c : Nat) : (s.takeFault r w).memRead c = s.memRead c := rfl
@[simp] theorem State.reg_keySet (s : State) (k : Fin 16) (b : Bool) (x : Reg) : (s.keySet k b).reg x = s.reg x := rfl
@[simp] theorem State.memRead_keySet (s : State) (k : Fin 16) (b : Bool) (c : Nat) : (s.keySet k b).memRead c = s.memRead c := rfl
@[simp] theorem State.reg_keyClearAll (s : State) (x : Reg) : (s.keyClearAll).reg x = s.reg x := rfl
@[simp] theorem State.memRead_keyClearAll (s : State) (c : Nat) : (s.keyClearAll).memRead c = s.memRead c := rfl
@[simp] theorem State.reg_quit (s : State) (x : Reg) : (s.quit).reg x = s.reg x := rfl
@[simp] theorem State.memRead_quit (s : State) (c : Nat) : (s.quit).memRead c = s.memRead c := rfl
@[simp] theorem State.reg_decay (s : State) (tick : Bool) (x : Reg) : (s.decay tick).reg x = s.reg x := rfl
@[simp] theorem State.memRead_decay (s : State) (tick : Bool) (c : Nat) : (s.decay tick).memRead c = s.memRead c := rfl
@[simp] theorem State.reg_markLoaded (s : State) (x : Reg) : (s.markLoaded).reg x = s.reg x := rfl
@[simp] theorem State.memRead_markLoaded (s : State) (c : Nat) : (s.markLoaded).memRead c = s.memRead c := rfl

/-! Reads depend on the fields they name and on no others. -/

theorem State.reg_of_v {s t : State} (h : t.v = s.v) (x : Reg) : t.reg x = s.reg x := by
  simp [State.reg, h]

@[simp] theorem State.reg_memWriteBytes (s : State) (a : Nat) (bs : List Byte) (x : Reg) :
    (s.memWriteBytes a bs).reg x = s.reg x := State.reg_of_v (by simp) x

theorem State.memRead_of_mem {s t : State} (hc : t.cfg = s.cfg) (hm : t.mem = s.mem) (a : Nat) :
    t.memRead a = s.memRead a := by
  simp [State.memRead, hc, hm]

@[simp] theorem State.memRead_setRegs (s : State) (j : Nat) (bs : List Byte) (c : Nat) :
    (s.setRegs j bs).memRead c = s.memRead c := State.memRead_of_mem (by simp) (by simp) c

theorem State.fetchWord_of_mem {s t : State} (hc : t.cfg = s.cfg) (hm : t.mem = s.mem) (hp : t.pc = s.pc) :
    t.fetchWord = s.fetchWord := by
  simp [State.fetchWord, State.memRead_of_mem hc hm, hp]

end Sys2Proof.Machine
end

