-- ==== Sys2Proof/Laws/Ops.lean ====
section
/-! SUPPORT. One lemma for each shared operation that says once what it does: registers, memory bytes, the call stack,
the ends of an instruction. Callers cite these and do not unfold the operation. -/

namespace Sys2Proof.Machine

/-! Registers. -/

theorem State.reg_setReg (s : State) (x y : Reg) (b : Byte) :
    (s.setReg x b).reg y = if y = x then b else s.reg y := by
  unfold State.reg State.setReg
  by_cases h : y = x
  · subst h; simp
  · have : x.toNat ≠ y.toNat := fun e => h (BitVec.eq_of_toNat_eq e.symm)
    simp [h, this]

theorem State.reg_setReg_self (s : State) (x : Reg) (b : Byte) : (s.setReg x b).reg x = b := by
  simp [State.reg_setReg]

theorem State.reg_setReg_ne (s : State) {x y : Reg} (b : Byte) (h : y ≠ x) : (s.setReg x b).reg y = s.reg y := by
  simp [State.reg_setReg, h]

/-- Flag first, then result: the result's register holds the result even when it is `VF` (40_dispatch.md R103). -/
theorem State.reg_setFlagThenReg (s : State) (f : Byte) (x y : Reg) (b : Byte) :
    (s.setFlagThenReg f x b).reg y = if y = x then b else if y = VF then f else s.reg y := by
  simp [State.setFlagThenReg, State.reg_setReg]

/-- Consecutive register writes, where they stay within the sixteen registers. -/
theorem State.reg_setRegs (s : State) (j : Nat) (bs : List Byte) (y : Reg) (h : j + bs.length ≤ 16) :
    (s.setRegs j bs).reg y =
      if j ≤ y.toNat then (bs[y.toNat - j]?).getD (s.reg y) else s.reg y := by
  induction bs generalizing s j with
  | nil => simp [State.setRegs]
  | cons b bs ih =>
    have hl : j + 1 + bs.length ≤ 16 := by simp at h; omega
    have hj : j < 16 := by simp at h; omega
    rw [State.setRegs, ih _ _ hl, State.reg_setReg]
    have hy : y = BitVec.ofNat 4 j ↔ y.toNat = j := by
      constructor
      · intro e; rw [e]; simp; omega
      · intro e; apply BitVec.eq_of_toNat_eq; simp; omega
    by_cases h1 : j + 1 ≤ y.toNat
    · have h2 : j ≤ y.toNat := by omega
      have h3 : y.toNat - j = (y.toNat - (j + 1)) + 1 := by omega
      have h4 : ¬ y.toNat = j := by omega
      simp [h1, h2, h3, hy, h4]
    · by_cases h2 : y.toNat = j
      · simp [h2, hy]
      · have h3 : ¬ j ≤ y.toNat := by omega
        simp [h1, h3, hy, h2]

theorem State.length_regsUpTo (s : State) (x : Reg) : (s.regsUpTo x).length = x.toNat + 1 := by
  simp [State.regsUpTo]

/-! Memory bytes. -/

/-- A read after a write, both addresses modulo 4096 (20_memory.md R51, R52). -/
theorem State.memRead_memWrite (s : State) (a c : Nat) (b : Byte) :
    (s.memWrite a b).memRead c = if c % 4096 = a % 4096 then b else s.memRead c := by
  unfold State.memRead State.memWrite
  exact Memory.read_write s.cfg.font s.mem (a % 4096) (c % 4096) b

theorem State.memRead_mod (s : State) (a : Nat) : s.memRead (a % 4096) = s.memRead a := by
  simp [State.memRead]

/-- A run of writes leaves every address outside it alone. -/
theorem State.memRead_memWriteBytes_of_outside (s : State) (a c : Nat) (bs : List Byte)
    (h : ∀ j, j < bs.length → c % 4096 ≠ (a + j) % 4096) : (s.memWriteBytes a bs).memRead c = s.memRead c := by
  induction bs generalizing s a with
  | nil => rfl
  | cons b bs ih =>
    rw [State.memWriteBytes, ih _ _ (fun j hj => by
      have := h (j + 1) (by simpa using hj)
      simpa [Nat.add_assoc, Nat.add_comm 1 j] using this), State.memRead_memWrite]
    have := h 0 (by simp)
    simp only [Nat.add_zero] at this
    simp [this]

/-- A run of at most 4096 writes leaves at each of its addresses the byte written there. -/
theorem State.memRead_memWriteBytes_of_inside (s : State) (a j : Nat) (bs : List Byte) (hj : j < bs.length)
    (hl : bs.length ≤ 4096) : (s.memWriteBytes a bs).memRead (a + j) = bs[j] := by
  induction bs generalizing s a j with
  | nil => simp at hj
  | cons b bs ih =>
    cases j with
    | zero =>
      rw [State.memWriteBytes, State.memRead_memWriteBytes_of_outside, State.memRead_memWrite]
      · simp
      · intro k hk
        simp at hl
        omega
    | succ j =>
      have := ih (s.memWrite a b) (a + 1) j (by simpa using hj) (by simp at hl; omega)
      rw [State.memWriteBytes, show a + (j + 1) = a + 1 + j by omega, this]
      simp

theorem State.wf_memWrite (s : State) (a : Nat) (b : Byte) (h : Memory.wf s.cfg.font s.mem = true) :
    Memory.wf (s.memWrite a b).cfg.font (s.memWrite a b).mem = true :=
  Memory.wf_write s.cfg.font s.mem (a % 4096) b (Nat.mod_lt a (by decide)) h

/-- Every run of writes keeps the canonical form of memory. -/
theorem State.wf_memWriteBytes (s : State) (a : Nat) (bs : List Byte) (h : Memory.wf s.cfg.font s.mem = true) :
    Memory.wf s.cfg.font (s.memWriteBytes a bs).mem = true := by
  induction bs generalizing s a with
  | nil => exact h
  | cons b bs ih => exact ih (s.memWrite a b) (a + 1) (State.wf_memWrite s a b h)

theorem State.length_memReadBytes (s : State) (a n : Nat) : (s.memReadBytes a n).length = n := by
  simp [State.memReadBytes]

theorem State.getElem_memReadBytes (s : State) (a n j : Nat) (h : j < (s.memReadBytes a n).length) :
    (s.memReadBytes a n)[j] = s.memRead (a + j) := by
  simp [State.memReadBytes]

/-! The call stack. -/

/-- What `Push` can do (10_state.md R34). -/
theorem State.push_cases (s : State) (a : Word) :
    (s.push a = .error .stackOverflow ∧ s.cfg.stackDepth = some s.stack.length) ∨
    (s.push a = .ok (s.setStack (a :: s.stack)) ∧ s.cfg.stackDepth ≠ some s.stack.length) := by
  unfold State.push
  by_cases h : s.cfg.stackDepth = some s.stack.length
  · exact .inl ⟨if_pos h, h⟩
  · exact .inr ⟨if_neg h, h⟩

/-- What `Pop` can do (10_state.md R34). -/
theorem State.pop_cases (s : State) :
    (s.pop = .error .stackUnderflow ∧ s.stack = []) ∨
    (∃ a rest, s.stack = a :: rest ∧ s.pop = .ok (a, s.setStack rest)) := by
  unfold State.pop
  cases h : s.stack with
  | nil => exact .inl ⟨rfl, rfl⟩
  | cons a rest => exact .inr ⟨a, rest, rfl, rfl⟩

/-! The ends of an instruction. -/

@[simp] theorem State.retire_eq_next (s t : State) (o : PcOutcome) (drew : Bool) :
    s.retire o drew = .next t ↔ t = s.finish o drew := by
  unfold State.retire
  constructor
  · intro h; cases h; rfl
  · intro h; rw [h]

@[simp] theorem State.raise_eq_next (s t : State) (r : FaultReason) (w : Word) :
    s.raise r w = .next t ↔ t = s.takeFault r w := by
  unfold State.raise
  constructor
  · intro h; cases h; rfl
  · intro h; rw [h]

/-- `00EE` by its two cases: it raises on an empty stack, and else retires at the popped address. -/
theorem execRet_eq (s : State) :
    execRet s =
      match s.stack with
      | [] => s.raise .stackUnderflow (encode .ret)
      | a :: rest => (s.setStack rest).retire (.jump a) false := by
  unfold execRet State.pop
  cases s.stack <;> rfl

/-- `2nnn` by its two cases: it raises on a full stack of finite depth, and else pushes and jumps. -/
theorem execCall_eq (nnn : Addr12) (s : State) :
    execCall nnn s =
      if s.cfg.stackDepth = some s.stack.length then s.raise .stackOverflow (encode (.call nnn))
      else (s.setStack ((s.pc + 2) :: s.stack)).retire (.jump (zext16 nnn)) false := by
  unfold execCall State.push
  by_cases h : s.cfg.stackDepth = some s.stack.length
  · simp only [if_pos h]
  · simp only [if_neg h]

@[simp] theorem nextPc_next (pc : Word) : nextPc pc .next = pc + 2 := rfl
@[simp] theorem nextPc_skip (pc : Word) : nextPc pc .skip = pc + 4 := rfl
@[simp] theorem nextPc_jump (pc t : Word) : nextPc pc (.jump t) = t := rfl
@[simp] theorem nextPc_hold (pc : Word) : nextPc pc .hold = pc := rfl

/-! Flags. -/

/-- A flag is exactly 0 or 1 (10_state.md R22). -/
theorem flagByte_zero_or_one (b : Bool) : flagByte b = 0 ∨ flagByte b = 1 := by
  cases b
  · exact .inl rfl
  · exact .inr rfl

theorem flagByte_eq_one_iff (b : Bool) : flagByte b = 1 ↔ b = true := by
  cases b <;> decide

end Sys2Proof.Machine
end

