-- ==== Sys2Proof/Laws/PerInstr.lean ====
section
/-! SUPPORT. Statements for all instructions, one lemma a constructor. TableRow: the word of a well-formed instruction
has the fixed bits of the instruction's row of spec/opcode_table.json (30_encoding.md R72, R74). -/

namespace Sys2Proof.Laws.TableRow

/-- The instruction's encoding lies in its row of the opcode table. -/
def Statement (i : Instr) : Prop := i.wf = true → i.row.covers (encode i) = true

/-- A row covers a word whose bits under the mask are known. -/
theorem covers_of_and {w v m : Word} {r : OpcodeRow} (h : w &&& m = v) (hr : r.mask = m ∧ r.value = v) :
    r.covers w = true := by
  simp [OpcodeRow.covers, hr.1, hr.2, h]

theorem cls : Statement .cls := fun _ => by decide
theorem ret : Statement .ret := fun _ => by decide
theorem jp (nnn : Addr12) : Statement (.jp nnn) := fun _ => covers_of_and (encodeNNN_and_op _ _) ⟨rfl, rfl⟩
theorem call (nnn : Addr12) : Statement (.call nnn) := fun _ => covers_of_and (encodeNNN_and_op _ _) ⟨rfl, rfl⟩
theorem seImm (x : Reg) (kk : Byte) : Statement (.seImm x kk) := fun _ => covers_of_and (encodeXKK_and_op _ _ _) ⟨rfl, rfl⟩
theorem sneImm (x : Reg) (kk : Byte) : Statement (.sneImm x kk) := fun _ => covers_of_and (encodeXKK_and_op _ _ _) ⟨rfl, rfl⟩
theorem seReg (x y : Reg) : Statement (.seReg x y) := fun _ => covers_of_and (encodeXYN_and_nibble _ _ _ _) ⟨rfl, rfl⟩
theorem ldImm (x : Reg) (kk : Byte) : Statement (.ldImm x kk) := fun _ => covers_of_and (encodeXKK_and_op _ _ _) ⟨rfl, rfl⟩
theorem addImm (x : Reg) (kk : Byte) : Statement (.addImm x kk) := fun _ => covers_of_and (encodeXKK_and_op _ _ _) ⟨rfl, rfl⟩
theorem ldReg (x y : Reg) : Statement (.ldReg x y) := fun _ => covers_of_and (encodeXYN_and_nibble _ _ _ _) ⟨rfl, rfl⟩
theorem orReg (x y : Reg) : Statement (.orReg x y) := fun _ => covers_of_and (encodeXYN_and_nibble _ _ _ _) ⟨rfl, rfl⟩
theorem andReg (x y : Reg) : Statement (.andReg x y) := fun _ => covers_of_and (encodeXYN_and_nibble _ _ _ _) ⟨rfl, rfl⟩
theorem xorReg (x y : Reg) : Statement (.xorReg x y) := fun _ => covers_of_and (encodeXYN_and_nibble _ _ _ _) ⟨rfl, rfl⟩
theorem addReg (x y : Reg) : Statement (.addReg x y) := fun _ => covers_of_and (encodeXYN_and_nibble _ _ _ _) ⟨rfl, rfl⟩
theorem subReg (x y : Reg) : Statement (.subReg x y) := fun _ => covers_of_and (encodeXYN_and_nibble _ _ _ _) ⟨rfl, rfl⟩
theorem shr (x y : Reg) : Statement (.shr x y) := fun _ => covers_of_and (encodeXYN_and_nibble _ _ _ _) ⟨rfl, rfl⟩
theorem subn (x y : Reg) : Statement (.subn x y) := fun _ => covers_of_and (encodeXYN_and_nibble _ _ _ _) ⟨rfl, rfl⟩
theorem shl (x y : Reg) : Statement (.shl x y) := fun _ => covers_of_and (encodeXYN_and_nibble _ _ _ _) ⟨rfl, rfl⟩
theorem sneReg (x y : Reg) : Statement (.sneReg x y) := fun _ => covers_of_and (encodeXYN_and_nibble _ _ _ _) ⟨rfl, rfl⟩
theorem ldI (nnn : Addr12) : Statement (.ldI nnn) := fun _ => covers_of_and (encodeNNN_and_op _ _) ⟨rfl, rfl⟩
theorem jpV0 (nnn : Addr12) : Statement (.jpV0 nnn) := fun _ => covers_of_and (encodeNNN_and_op _ _) ⟨rfl, rfl⟩
theorem rnd (x : Reg) (kk : Byte) : Statement (.rnd x kk) := fun _ => covers_of_and (encodeXKK_and_op _ _ _) ⟨rfl, rfl⟩
theorem drw (x y : Reg) (n : Nibble) : Statement (.drw x y n) := fun _ => covers_of_and (encodeXYN_and_op _ _ _ _) ⟨rfl, rfl⟩
theorem skp (x : Reg) : Statement (.skp x) := fun _ => covers_of_and (encodeXKK_and_byte _ _ _) ⟨rfl, rfl⟩
theorem sknp (x : Reg) : Statement (.sknp x) := fun _ => covers_of_and (encodeXKK_and_byte _ _ _) ⟨rfl, rfl⟩
theorem ldXDt (x : Reg) : Statement (.ldXDt x) := fun _ => covers_of_and (encodeXKK_and_byte _ _ _) ⟨rfl, rfl⟩
theorem ldXK (x : Reg) : Statement (.ldXK x) := fun _ => covers_of_and (encodeXKK_and_byte _ _ _) ⟨rfl, rfl⟩
theorem ldDtX (x : Reg) : Statement (.ldDtX x) := fun _ => covers_of_and (encodeXKK_and_byte _ _ _) ⟨rfl, rfl⟩
theorem ldStX (x : Reg) : Statement (.ldStX x) := fun _ => covers_of_and (encodeXKK_and_byte _ _ _) ⟨rfl, rfl⟩
theorem addI (x : Reg) : Statement (.addI x) := fun _ => covers_of_and (encodeXKK_and_byte _ _ _) ⟨rfl, rfl⟩
theorem ldF (x : Reg) : Statement (.ldF x) := fun _ => covers_of_and (encodeXKK_and_byte _ _ _) ⟨rfl, rfl⟩
theorem ldB (x : Reg) : Statement (.ldB x) := fun _ => covers_of_and (encodeXKK_and_byte _ _ _) ⟨rfl, rfl⟩
theorem stRegs (x : Reg) : Statement (.stRegs x) := fun _ => covers_of_and (encodeXKK_and_byte _ _ _) ⟨rfl, rfl⟩
theorem ldRegs (x : Reg) : Statement (.ldRegs x) := fun _ => covers_of_and (encodeXKK_and_byte _ _ _) ⟨rfl, rfl⟩
theorem unrecognized (w : Word) : Statement (.unrecognized w) := fun _ => by simp [Instr.row, OpcodeRow.covers]

end Sys2Proof.Laws.TableRow
end

