-- ==== Sys2Proof/Laws/Step.lean ====
section
/-! SUPPORT. What the input poll does and leaves alone; the one inversion lemma of `step`: everything a step that
answers a next state can be; and what an accepted load is. -/

namespace Sys2Proof.Machine

/-- A poll changes the keypad latch and `running`, and nothing else (60_exceptions.md R234 to R236). -/
theorem State.applyPoll_eq (s : State) (events : List InputEvent) :
    s.applyPoll events =
      { s with key := (s.applyPoll events).key, running := (s.applyPoll events).running } := by
  unfold State.applyPoll
  induction events generalizing s with
  | nil => rfl
  | cons e es ih =>
    simp only [List.foldl_cons]
    rw [ih]
    cases e <;> rfl

/-- What the part before the instruction does to the state: latch, `running`, and the model's own fields. -/
theorem State.beginIteration_eq (s : State) :
    s.beginIteration =
      { s with key := s.beginIteration.key, running := s.beginIteration.running, env := s.env.tail,
               iter := s.iter + 1, rand := s.nextInput.rand } := by
  unfold State.beginIteration
  rw [State.applyPoll_eq]

/-- No event of a poll sets `running` (10_state.md R31). -/
theorem State.applyPoll_running_of_not (s : State) (events : List InputEvent) (h : s.running = false) :
    (s.applyPoll events).running = false := by
  unfold State.applyPoll
  induction events generalizing s with
  | nil => exact h
  | cons e es ih => exact ih _ (by cases e <;> first | exact h | rfl)

/-- `running` survives a poll exactly when no `Quit` is in it (60_exceptions.md R236). -/
theorem State.applyPoll_running (s : State) (events : List InputEvent) :
    (s.applyPoll events).running = (s.running && !events.contains .quit) := by
  induction events generalizing s with
  | nil => simp [State.applyPoll]
  | cons e es ih =>
    have hstep : s.applyPoll (e :: es) = (s.applyEvent e).applyPoll es := rfl
    rw [hstep, ih]
    cases e <;> simp [State.applyEvent]

/-- The last event of a poll acts on what the earlier ones left. -/
@[simp] theorem State.applyPoll_concat (s : State) (events : List InputEvent) (e : InputEvent) :
    s.applyPoll (events ++ [e]) = (s.applyPoll events).applyEvent e := by
  simp [State.applyPoll]

/-- What a poll leaves in the latch depends on the state by its latch alone. -/
theorem State.applyPoll_key_congr {s t : State} (h : s.key = t.key) (events : List InputEvent) :
    (s.applyPoll events).key = (t.applyPoll events).key := by
  unfold State.applyPoll
  induction events generalizing s t with
  | nil => exact h
  | cons e es ih => exact ih (by cases e <;> simp [State.applyEvent, h])

theorem decayTimer_false (b : Byte) : decayTimer false b = b := by
  unfold decayTimer
  split
  · rename_i h; exact h.symm
  · rfl

/-- With no tick nothing happens at the end of an iteration. -/
theorem State.decay_false (s : State) : s.decay false = s := by
  simp [State.decay, decayTimer_false]

/-- Everything a step can be that answers a next state: the loop was enabled, and either the poll quit, or the decoded
instruction ran and the iteration ended. -/
theorem step_cases {s t : State} (h : step s = .next t) :
    s.fault = none ∧ s.running = true ∧
      ((s.beginIteration.running = false ∧ t = s.beginIteration) ∨
       (s.beginIteration.running = true ∧
        ∃ u, exec (decode s.beginIteration.fetchWord) s.beginIteration = .next u ∧
          t = u.endIteration s.nextInput.tick)) := by
  unfold step State.iteration at h
  cases hf : s.fault with
  | some f => simp [hf] at h
  | none =>
    cases hr : s.running with
    | false => simp [hf, hr] at h
    | true =>
      refine ⟨rfl, rfl, ?_⟩
      simp only [hf, hr] at h
      unfold State.afterPoll at h
      cases hb : s.beginIteration.running with
      | false =>
        simp only [hb] at h
        cases h
        exact .inl ⟨rfl, rfl⟩
      | true =>
        simp only [hb] at h
        refine .inr ⟨rfl, ?_⟩
        unfold State.stepInstr at h
        cases he : exec (decode s.beginIteration.fetchWord) s.beginIteration with
        | next u =>
          rw [he] at h
          cases h
          exact ⟨u, rfl, rfl⟩
        | fault r => rw [he] at h; cases h
        | refused r => rw [he] at h; cases h

/-- Everything an accepted load is (70_reset_and_hazards.md R254). -/
theorem hostLoad_eq_next (s t : State) (a : Nat) (bytes : List Byte) :
    hostLoad a bytes s = .next t ↔
      s.iter = 0 ∧ s.loaded = false ∧ a + bytes.length ≤ 4096 ∧ t = (s.memWriteBytes a bytes).markLoaded := by
  unfold hostLoad romBase romMax
  split
  · simp [*]
  split
  · simp [*]
  split
  · simp; omega
  · rename_i hi hl hf
    simp [Decidable.not_not.mp hi, hl, Nat.le_of_not_lt hf, eq_comm]

end Sys2Proof.Machine
end

