-- ==== Sys2Proof/Tests/Slice0.lean ====
section
/-! SUPPORT. The model's own tests: well-formedness refuses what is ill formed; every constructor's decoding, by a word
written out from the spec's encoding of it; one or two single steps per instruction, with the expected values of
95_test_vectors.md (the vector's name stands in the theorem's comment); and a witness for the hypotheses of each
statement. -/

namespace Sys2Proof.Tests

open Sys2Proof.Machine

/-! Well-formedness: the one check is that `unrecognized` holds a word no row of the table matches (R80). -/

theorem test_wf_refuses_recognized_word : (Instr.unrecognized 0x00E0).wf = false := by decide
theorem test_wf_refuses_draw_word : (Instr.unrecognized 0xD123).wf = false := by decide
theorem test_wf_accepts_unrecognized_word : (Instr.unrecognized 0x5011).wf = true := by decide

/-! Decoding, bit by bit from 30_encoding.md R72 to R79 (the binary groups are o, x, y, n). -/

theorem test_decode_cls : decode 0b0000_0000_1110_0000 = .cls := by decide
theorem test_decode_ret : decode 0b0000_0000_1110_1110 = .ret := by decide
theorem test_decode_jp : decode 0b0001_1010_1011_1100 = .jp 0xABC := by decide
theorem test_decode_call : decode 0b0010_0011_0000_0000 = .call 0x300 := by decide
theorem test_decode_seImm : decode 0b0011_0101_0001_0010 = .seImm 5 0x12 := by decide
theorem test_decode_sneImm : decode 0b0100_0101_0001_0010 = .sneImm 5 0x12 := by decide
theorem test_decode_seReg : decode 0b0101_0010_0011_0000 = .seReg 2 3 := by decide
theorem test_decode_ldImm : decode 0b0110_1010_0000_0111 = .ldImm 10 7 := by decide
theorem test_decode_addImm : decode 0b0111_1111_0000_0001 = .addImm 15 1 := by decide
theorem test_decode_ldReg : decode 0b1000_0010_0011_0000 = .ldReg 2 3 := by decide
theorem test_decode_orReg : decode 0b1000_0010_0011_0001 = .orReg 2 3 := by decide
theorem test_decode_andReg : decode 0b1000_0010_0011_0010 = .andReg 2 3 := by decide
theorem test_decode_xorReg : decode 0b1000_0010_0011_0011 = .xorReg 2 3 := by decide
theorem test_decode_addReg : decode 0b1000_0010_0011_0100 = .addReg 2 3 := by decide
theorem test_decode_subReg : decode 0b1000_0010_0011_0101 = .subReg 2 3 := by decide
theorem test_decode_shr : decode 0b1000_0010_0011_0110 = .shr 2 3 := by decide
theorem test_decode_subn : decode 0b1000_0010_0011_0111 = .subn 2 3 := by decide
theorem test_decode_shl : decode 0b1000_0010_0011_1110 = .shl 2 3 := by decide
theorem test_decode_sneReg : decode 0b1001_0010_0011_0000 = .sneReg 2 3 := by decide
theorem test_decode_ldI : decode 0b1010_0001_0010_0011 = .ldI 0x123 := by decide
theorem test_decode_jpV0 : decode 0b1011_0011_0000_0000 = .jpV0 0x300 := by decide
theorem test_decode_rnd : decode 0b1100_0001_0000_1111 = .rnd 1 0x0F := by decide
theorem test_decode_drw : decode 0b1101_0001_0010_0011 = .drw 1 2 3 := by decide
theorem test_decode_skp : decode 0b1110_0101_1001_1110 = .skp 5 := by decide
theorem test_decode_sknp : decode 0b1110_0101_1010_0001 = .sknp 5 := by decide
theorem test_decode_ldXDt : decode 0b1111_0101_0000_0111 = .ldXDt 5 := by decide
theorem test_decode_ldXK : decode 0b1111_0101_0000_1010 = .ldXK 5 := by decide
theorem test_decode_ldDtX : decode 0b1111_0101_0001_0101 = .ldDtX 5 := by decide
theorem test_decode_ldStX : decode 0b1111_0101_0001_1000 = .ldStX 5 := by decide
theorem test_decode_addI : decode 0b1111_0101_0001_1110 = .addI 5 := by decide
theorem test_decode_ldF : decode 0b1111_0101_0010_1001 = .ldF 5 := by decide
theorem test_decode_ldB : decode 0b1111_0101_0011_0011 = .ldB 5 := by decide
theorem test_decode_stRegs : decode 0b1111_0101_0101_0101 = .stRegs 5 := by decide
theorem test_decode_ldRegs : decode 0b1111_0101_0110_0101 = .ldRegs 5 := by decide
/-- TU2 to TU8. -/
theorem test_decode_unrecognized : [0x0123, 0x01E0, 0x0EE0, 0x5AB7, 0x9231, 0x8AB9, 0x800F, 0xE09F, 0xF064].all
    (fun w => decide (decode w = .unrecognized w)) = true := by decide
/-- The first byte in memory order is the high one (R70); a lone byte gives no instruction. -/
theorem test_decodeBytes_order : decodeBytes [0xD1, 0x23, 0x77] = .ok (.drw 1 2 3, [0x77]) := by decide
theorem test_decodeBytes_truncated : decodeBytes [0xD1] = .error .truncated := by decide
theorem test_decodeTableWord : decodeTableWord 16 0xF133 = some (.ldB 1) := by decide

/-! Single steps. -/

/-- The state an outcome holds; the reset state where it holds none. -/
def out (o : Host.Outcome State Fault Refusal) : State :=
  match o with
  | .next s => s
  | .fault _ => State.reset
  | .refused _ => State.reset

/-- Whether an outcome is a next state. -/
def isNext (o : Host.Outcome State Fault Refusal) : Bool :=
  match o with
  | .next _ => true
  | .fault _ => false
  | .refused _ => false

theorem exists_next_of_isNext {o : Host.Outcome State Fault Refusal} (h : isNext o = true) : ∃ t, o = .next t := by
  cases o with
  | next t => exact ⟨t, rfl⟩
  | fault r => cases h
  | refused r => cases h

/-- The reset state with some registers set, the last listed first. -/
def withRegs (rs : List (Reg × Byte)) : State := rs.foldr (fun p s => s.setReg p.1 p.2) State.reset

/-- The reset state with bytes stored at an address and `I` there. -/
def withBytes (a : Nat) (bs : List Byte) (s : State) : State := { s.memWriteBytes a bs with i := BitVec.ofNat 16 a }

/-- TD1. -/
theorem test_cls : fbByte (out (exec .cls { State.reset with fb := Vector.replicate 256 0xAA })).fb 255 = 0 := by
  decide +kernel
/-- TD3. -/
theorem test_drw_spans_two_bytes :
    (fun t : State => (fbByte t.fb 0, fbByte t.fb 1, t.reg VF, t.fbUpdated))
      (out (exec (.drw 0 1 1) (withBytes 0x300 [0xFF] (withRegs [(0, 4)])))) = (0x0F, 0xF0, 0, true) := by
  decide +kernel
/-- TD14: the wrapped bits collide. -/
theorem test_drw_wrap_collides :
    (fun t : State => (fbByte t.fb 7, fbByte t.fb 0, t.reg VF))
      (out (exec (.drw 0 1 1) { withBytes 0x300 [0xFF] (withRegs [(0, 60)]) with
        fb := fbXor (Vector.replicate 256 0) 0 0xF0, cfg := { Config.default with hWrap := .wrap } })) =
      (0x0F, 0x00, 1) := by
  decide +kernel
/-- TF5: the top of the stack is the last pushed. -/
theorem test_ret : (fun t : State => (t.pc, t.stack))
    (out (exec .ret { State.reset with pc := 0x400, stack := [0x306, 0x202] })) = (0x306, [0x202]) := by decide
/-- TF6: the fault record; and no further step. -/
theorem test_ret_underflow :
    (fun t : State => (t.pc, t.fault))
      (out (step ({ State.reset with pc := 0x300 }.withFetchWord 16 0x00EE))) =
      (0x300, some { reason := .stackUnderflow, pc := 0x300, word := 0x00EE }) := by decide +kernel
/-- TF1. -/
theorem test_jp : (out (exec (.jp 0xABC) State.reset)).pc = 0xABC := by decide
/-- TF8. -/
theorem test_call_wraps_return_address : (fun t : State => (t.pc, t.stack))
    (out (exec (.call 0x300) { State.reset with pc := 0xFFFE })) = (0x300, [0x0000]) := by decide
/-- TF7. -/
theorem test_call_overflow :
    (fun t : State => (t.pc, t.stack, t.fault.map fun f => (f.reason, f.word)))
      (out (exec (.call 0x600) { State.reset with
        pc := 0x500, stack := [0x304, 0x202], cfg := { Config.default with stackDepth := some 2 } })) =
      (0x500, [0x304, 0x202], some (.stackOverflow, 0x2600)) := by decide
/-- TF10. -/
theorem test_jpV0 : (out (exec (.jpV0 0xFFF) (withRegs [(0, 0xFF)]))).pc = 0x10FE := by decide
/-- TF12. -/
theorem test_seImm_skips : (out (exec (.seImm 0 5) (withRegs [(0, 5)]))).pc = 0x204 := by decide
theorem test_seImm_goes_on : (out (exec (.seImm 0 6) (withRegs [(0, 5)]))).pc = 0x202 := by decide
/-- TF13. -/
theorem test_sneImm_skips : (out (exec (.sneImm 1 5) (withRegs [(1, 4)]))).pc = 0x204 := by decide
theorem test_sneImm_goes_on : (out (exec (.sneImm 1 4) (withRegs [(1, 4)]))).pc = 0x202 := by decide
/-- TF14, TF15. -/
theorem test_seReg_skips : (out (exec (.seReg 2 3) (withRegs [(2, 7), (3, 7)]))).pc = 0x204 := by decide
theorem test_seReg_goes_on : (out (exec (.seReg 2 3) (withRegs [(2, 7), (3, 8)]))).pc = 0x202 := by decide
theorem test_sneReg_skips : (out (exec (.sneReg 2 3) (withRegs [(2, 7), (3, 8)]))).pc = 0x204 := by decide
theorem test_sneReg_same : (out (exec (.sneReg 4 4) (withRegs [(4, 7)]))).pc = 0x202 := by decide
/-- TU1. -/
theorem test_unrecognized : out (exec (.unrecognized 0x0000) { State.reset with fbUpdated := true }) =
    { State.reset with pc := 0x202, fbUpdated := false } := by decide +kernel
/-- TA1. -/
theorem test_ldImm : (out (exec (.ldImm 0 0xAB) State.reset)).reg 0 = 0xAB := by decide
/-- TA2, TA3. -/
theorem test_addImm_no_flag : (fun t : State => (t.reg 0, t.reg VF))
    (out (exec (.addImm 0 10) (withRegs [(0, 0xFA), (VF, 0x77)]))) = (0x04, 0x77) := by decide
theorem test_addImm_VF : (out (exec (.addImm 15 1) (withRegs [(VF, 0xFF)]))).reg VF = 0 := by decide
/-- TA4. -/
theorem test_ldReg : (out (exec (.ldReg 0 1) (withRegs [(1, 0x42)]))).reg 0 = 0x42 := by decide
/-- R163, R164, R165 examples. -/
theorem test_orReg : (out (exec (.orReg 0 1) (withRegs [(0, 0xF0), (1, 0x0F)]))).reg 0 = 0xFF := by decide
theorem test_andReg : (out (exec (.andReg 0 1) (withRegs [(0, 0xF0), (1, 0x3C)]))).reg 0 = 0x30 := by decide
theorem test_xorReg : (out (exec (.xorReg 0 1) (withRegs [(0, 0xFF), (1, 0x0F)]))).reg 0 = 0xF0 := by decide
/-- TA7, TA10. -/
theorem test_addReg_carry : (fun t : State => (t.reg 0, t.reg VF))
    (out (exec (.addReg 0 1) (withRegs [(0, 0xFF), (1, 1)]))) = (0, 1) := by decide
theorem test_addReg_result_wins : (out (exec (.addReg 15 1) (withRegs [(VF, 200), (1, 100)]))).reg VF = 44 := by decide
/-- TA12, TA13. -/
theorem test_subReg_equal : (fun t : State => (t.reg 0, t.reg VF))
    (out (exec (.subReg 0 1) (withRegs [(0, 7), (1, 7)]))) = (0, 0) := by decide
theorem test_subReg_result_wins : (out (exec (.subReg 15 1) (withRegs [(VF, 10), (1, 5)]))).reg VF = 5 := by decide
/-- TA15, TA17. -/
theorem test_shr_ignores_y : (fun t : State => (t.reg 0, t.reg VF))
    (out (exec (.shr 0 5) (withRegs [(0, 0x81), (5, 0xFF)]))) = (0x40, 1) := by decide
theorem test_shr_result_wins : (out (exec (.shr 15 0) (withRegs [(VF, 0x02)]))).reg VF = 1 := by decide
/-- TA19, TA21. -/
theorem test_subn_borrow : (fun t : State => (t.reg 0, t.reg VF))
    (out (exec (.subn 0 1) (withRegs [(0, 10), (1, 5)]))) = (0xFB, 0) := by decide
theorem test_subn_old_VF : (fun t : State => (t.reg 0, t.reg VF))
    (out (exec (.subn 0 15) (withRegs [(0, 3), (VF, 10)]))) = (7, 1) := by decide
/-- TA22, TA23. -/
theorem test_shl : (fun t : State => (t.reg 0, t.reg VF))
    (out (exec (.shl 0 0) (withRegs [(0, 0x81)]))) = (0x02, 1) := by decide
theorem test_shl_result_wins : (out (exec (.shl 15 0) (withRegs [(VF, 0x81)]))).reg VF = 0x02 := by decide
/-- TA24. -/
theorem test_rnd : (out (exec (.rnd 0 0x0F) { State.reset with rand := 0xA5 })).reg 0 = 0x05 := by decide
/-- TM1. -/
theorem test_ldI : (out (exec (.ldI 0x123) { State.reset with i := 0xF000 })).i = 0x0123 := by decide
/-- TM3, TM4. -/
theorem test_addI : (out (exec (.addI 0) { withRegs [(0, 1)] with i := 0x0FFF })).i = 0x1000 := by decide
theorem test_addI_wraps : (fun t : State => (t.i, t.reg VF))
    (out (exec (.addI 0) { withRegs [(0, 1)] with i := 0xFFFF })) = (0, 0) := by decide
/-- TM6. -/
theorem test_ldF_unmasked : (out (exec (.ldF 0) (withRegs [(0, 0xFF)]))).i = 1275 := by decide
/-- TM9. -/
theorem test_ldB_wraps : (fun t : State => (t.memRead 0xFFF, t.memRead 0, t.memRead 1, t.i))
    (out (exec (.ldB 0) { withRegs [(0, 123)] with i := 0xFFF })) = (1, 2, 3, 0xFFF) := by decide
/-- TM10, TM14. -/
theorem test_stRegs : (fun t : State => (t.memRead 0x400, t.memRead 0x401, t.memRead 0x402, t.i))
    (out (exec (.stRegs 1) { withRegs [(0, 1), (1, 2), (2, 9)] with i := 0x400 })) = (1, 2, 0, 0x400) := by decide
theorem test_stRegs_reduces_address :
    (out (exec (.stRegs 0) { withRegs [(0, 0x77)] with i := 0x1000 })).memRead 0 = 0x77 := by decide
/-- TM15, TM17. -/
theorem test_ldRegs : (fun t : State => (t.reg 0, t.reg 1, t.reg 2, t.reg 3, t.i))
    (out (exec (.ldRegs 2) (withBytes 0x300 [1, 5, 6, 8] (withRegs [(3, 9)])))) = (1, 5, 6, 9, 0x300) := by decide
theorem test_ldRegs_wraps : (fun t : State => (t.reg 0, t.reg 1))
    (out (exec (.ldRegs 1) (withBytes 0xFFF [0x12] State.reset))) = (0x12, 0xF0) := by decide

/-- The reset state with keys pressed. -/
def withKeys (ks : List (Fin 16)) : State := ks.foldl (fun s k => s.keySet k true) State.reset

/-- TK1, TK3. -/
theorem test_skp : (out (exec (.skp 0) ((withKeys [5]).setReg 0 5))).pc = 0x204 := by decide
theorem test_skp_high_index : (out (exec (.skp 0) ((withKeys [5]).setReg 0 21))).pc = 0x202 := by decide
theorem test_sknp : (out (exec (.sknp 0) ((withKeys [5]).setReg 0 5))).pc = 0x202 := by decide
theorem test_sknp_high_index : (out (exec (.sknp 0) ((withKeys [5]).setReg 0 21))).pc = 0x204 := by decide
/-- TK5, TK4. -/
theorem test_ldXK_lowest : (fun t : State => (t.reg 3, t.pc)) (out (exec (.ldXK 3) (withKeys [7, 3]))) = (3, 0x202) := by
  decide
theorem test_ldXK_holds : (out (exec (.ldXK 3) { State.reset with pc := 0x210 })).pc = 0x210 := by decide
/-- TK7, TK8, TK9. -/
theorem test_ldXDt : (out (exec (.ldXDt 5) { State.reset with dt := 0x3C })).reg 5 = 0x3C := by decide
theorem test_ldDtX : (out (exec (.ldDtX 0) (withRegs [(0, 60)]))).dt = 60 := by decide
theorem test_ldStX : (fun t : State => (t.st, t.sound)) (out (exec (.ldStX 1) (withRegs [(1, 10)]))) = (10, true) := by
  decide

/-! The loop. -/

/-- TX2: a fetch at 0xFFF takes its low byte from address 0. -/
theorem test_step_fetch_wraps : (fun t : State => (t.reg 0, t.pc))
    (out (step { State.reset.memWrite 0xFFF 0x60 with pc := 0x0FFF, env := [⟨[], 0, false⟩] })) = (0xF0, 0x1001) := by decide +kernel
/-- TK16: the tick of the same iteration takes one from the new value. -/
theorem test_step_ticks_after_the_instruction :
    (out (step ({ withRegs [(0, 0x80)] with env := [⟨[], 0, true⟩] }.withFetchWord 16 0xF015))).dt = 0x7F := by
  decide +kernel
/-- TK15: Quit in the poll; the step of that iteration does not run. -/
theorem test_step_quit : (fun t : State => (t.running, t.pc))
    (out (step { State.reset with env := [⟨[.quit], 0, true⟩] })) = (false, 0x200) := by decide +kernel
/-- TK12, TK13. -/
theorem test_tick : (fun t : State => (t.dt, t.st, t.sound)) { State.reset with dt := 0, st := 1 }.tick =
    (0, 0, false) := by decide
/-- TK14. -/
theorem test_keyClearAll : (withKeys [2, 9]).keyClearAll.lowestKey = none := by decide
/-- R230 (a): the events of the poll, in their order, come before the instruction that sees them. -/
theorem test_step_poll_in_order : (fun t : State => (t.reg 3, t.pc))
    (out (step { State.reset.memWriteBytes 0x200 [0xF3, 0x0A] with
      env := [⟨[.keySet 1 true, .keyClearAll, .keySet 9 true, .keySet 12 true, .keySet 9 false], 0, false⟩] })) =
    (12, 0x202) := by decide +kernel
/-- 70_reset_and_hazards.md R254: the bytes from 0x200 on; no second load; no byte past 0xFFF. -/
theorem test_load_refusals :
    (match hostLoad 0x200 [1] (out (boot Config.default [0x12, 0x34])) with
      | .refused r => some r | _ => none) = some .secondLoad ∧
    (match hostLoad 0xFFF [1, 2] State.reset with | .refused r => some r | _ => none) = some .romTooLong := by decide
theorem test_boot : (out (boot Config.default [0x12, 0x34])).fetchWord = 0x1234 := by decide

/-! A concrete state and operands for the hypotheses of each statement that has any. -/

/-- The reset state with a word at `pc` and a scheduled iteration without events. -/
def ready (w : Nat) : State := { State.reset with env := [⟨[], 7, true⟩] }.withFetchWord 16 w

theorem witness_DecodeInvertsEncode : (Instr.unrecognized 0x5AB7).wf = true ∧ (Instr.drw 15 15 15).wf = true := by
  decide
theorem witness_StepRunsDecodedInstruction :
    (ready 0xF30A).enabled = true ∧ (ready 0xF30A).beginIteration.running = true ∧
    (ready 0xF30A).memRead (ready 0xF30A).pc.toNat = 0xF3 ∧
    (ready 0xF30A).memRead ((ready 0xF30A).pc.toNat + 1) = 0x0A ∧ decode (wordOfBytes 0xF3 0x0A) = .ldXK 3 := by
  decide
theorem witness_IterationPartsTouchOnlyTheirOwn :
    (ready 0x00E0).env = ⟨[], 7, true⟩ :: [] ∧ State.reset.env = [] ∧ State.reset.fault = none ∧
    { State.reset with fault := some { reason := .stackUnderflow, pc := 0x200, word := 0x00EE } }.fault ≠ none := by decide
theorem witness_QuitEndsTheLoopBeforeTheStep :
    { State.reset with env := [⟨[.keySet 3 true, .quit], 7, true⟩] }.enabled = true ∧
    InputEvent.quit ∈ { State.reset with env := [⟨[.keySet 3 true, .quit], 7, true⟩] }.nextInput.poll := by decide
theorem witness_FetchIsBigEndianAndWraps : { State.reset with pc := 0x1FFF }.pc.toNat % 4096 = 0xFFF := by decide
theorem witness_RetOnEmptyStackFaults : State.reset.stack = [] := by decide
/-- A full stack of depth 2. -/
def fullStack : State := { State.reset with stack := [0x304, 0x202], cfg := { Config.default with stackDepth := some 2 } }
theorem witness_CallOnFullStackFaults : fullStack.cfg.stackDepth = some fullStack.stack.length := by decide
theorem witness_CallPushesNextAddress : State.reset.cfg.stackDepth ≠ some State.reset.stack.length := by decide
theorem witness_CallPushes_one_below_full :
    { fullStack with stack := [0x202] }.cfg.stackDepth ≠ some { fullStack with stack := [0x202] }.stack.length := by decide
/-- Statements with the hypothesis that an instruction answers a next state from some state. -/
theorem witness_exec_next : ∃ t, exec (.stRegs 2) State.reset = .next t := ⟨_, rfl⟩
theorem witness_OnlyRndReadsTheRandomByte :
    (∀ x kk, Instr.stRegs 2 ≠ .rnd x kk) ∧ ∃ t, exec (.stRegs 2) State.reset = .next t :=
  ⟨fun _ _ h => Instr.noConfusion h, _, rfl⟩
theorem witness_NoInstructionReadsSoundTimer :
    (∀ x, Instr.stRegs 2 ≠ .ldStX x) ∧ ∃ t, exec (.stRegs 2) State.reset = .next t :=
  ⟨fun _ h => Instr.noConfusion h, _, rfl⟩
theorem witness_OnlyOddTargetsMakePcOdd :
    State.reset.pc.toNat % 2 = 0 ∧ (∀ a ∈ State.reset.stack, a.toNat % 2 = 0) ∧
    ∃ t, exec (.jp 0x301) State.reset = .next t ∧ t.pc.toNat % 2 = 1 := by
  exact ⟨by decide, by simp [State.reset, State.create], out (exec (.jp 0x301) State.reset), rfl, by decide⟩
theorem witness_OnlyOddTargets_jpV0 :
    ∃ t, exec (.jpV0 0x300) (withRegs [(0, 1)]) = .next t ∧ t.pc.toNat % 2 = 1 := ⟨_, rfl, by decide⟩
theorem witness_StepKeepsInvariant :
    (ready 0x2300).Inv ∧ ∃ t, step (ready 0x2300) = .next t := by
  exact ⟨by decide +kernel, exists_next_of_isNext (by decide +kernel)⟩
theorem witness_CreationMeetsInvariant : { Config.default with stackDepth := some 1 }.wf = true := by decide
theorem witness_PlainFormsLeaveTheFlag :
    Instr.ldImm 14 7 ∈ [.orReg 14 2, .andReg 14 2, .xorReg 14 2, .ldReg 14 2, .ldImm 14 7, .addImm 14 7, .rnd 14 7] ∧
    (14 : Reg) ≠ VF := by decide
theorem witness_FlagIsZeroOrOne :
    (14 : Reg) ≠ VF ∧
    Instr.shl 14 15 ∈ [.addReg 14 15, .subReg 14 15, .shr 14 15, .subn 14 15, Instr.shl 14 15] := by decide
theorem witness_BlitRowIsItsByteForm : 31 < 32 ∧ 63 < 64 := by decide
theorem witness_DrawingTwiceRestores : (List.replicate 15 (0xFF : Byte)).length ≤ 15 ∧ 63 < 64 ∧ 31 < 32 := by decide
theorem witness_RetResumesAtPoppedAddress : fullStack.stack = 0x304 :: [0x202] := by decide
theorem witness_CallsAndReturnsNest :
    Balanced [.call 0x400, .cls, .ret] ∧ State.reset.fault = none ∧
    ∃ t, execAll [.call 0x300, .call 0x400, .cls, .ret, .ret] State.reset = .next t ∧ t.fault = none := by
  refine ⟨.call (body := [.cls]) (rest := []) (.other (fun h => Instr.noConfusion h) (fun _ h => Instr.noConfusion h) .nil) .nil,
    by decide, _, rfl, by decide⟩
theorem witness_RandomAndMask : { State.reset with rand := 0xA5 }.rand = 0xA5 := by decide
theorem witness_StoredRegistersLoadBack :
    ∃ t u, exec (.stRegs 2) State.reset = .next t ∧ (∀ a, State.memRead u a = t.memRead a) ∧ u.i = t.i ∧ u.v ≠ t.v :=
  ⟨_, { out (exec (.stRegs 2) State.reset) with v := Vector.replicate 16 9 }, rfl, fun _ => rfl, rfl, by decide⟩
/-- `Fx55` over both bytes of the next word (0x202, 0x203), over its low byte alone, and over neither. -/
theorem witness_StoreIsSeen_registers :
    ({ State.reset with i := 0x202 }.pc.toNat + 2 + 0) % 4096 = { State.reset with i := 0x202 }.effAddr 0 ∧
    ({ State.reset with i := 0x202 }.pc.toNat + 2 + 1) % 4096 = { State.reset with i := 0x202 }.effAddr 1 ∧
    ({ State.reset with i := 0x203 }.pc.toNat + 2 + 1) % 4096 = { State.reset with i := 0x203 }.effAddr 0 ∧
    ∀ j, j < 16 → ({ State.reset with i := 0x203 }.pc.toNat + 2 + 0) % 4096 ≠ { State.reset with i := 0x203 }.effAddr j := by
  decide
/-- `Fx33` whose last digit, and whose first digit, falls on a byte of the next word. -/
theorem witness_StoreIsSeen_digits :
    ({ State.reset with i := 0x200 }.pc.toNat + 2 + 0) % 4096 = { State.reset with i := 0x200 }.effAddr 2 ∧
    ({ State.reset with i := 0x203 }.pc.toNat + 2 + 1) % 4096 = { State.reset with i := 0x203 }.effAddr 0 := by decide
theorem witness_KeypadSkips_pressed :
    ((withKeys [15]).setReg 0 15).key[(((withKeys [15]).setReg 0 15).reg 0).toNat]? = some true := by decide
theorem witness_KeypadSkips_no_such_key :
    ((withKeys [0]).setReg 0 16).key[(((withKeys [0]).setReg 0 16).reg 0).toNat]? ≠ some true := by decide
theorem witness_KeyWaitTakesLowestKeyOrHolds :
    (withKeys [15, 3]).key[3]? = some true ∧ ∀ j, j < 3 → (withKeys [15, 3]).key[j]? ≠ some true := by decide
theorem witness_KeyWait_last_key :
    (withKeys [15]).key[15]? = some true ∧ ∀ j, j < 15 → (withKeys [15]).key[j]? ≠ some true := by decide
theorem witness_KeyWait_no_key : ∀ k : Nat, State.reset.key[k]? ≠ some true := by
  intro k
  simp [State.reset, State.create, Vector.getElem?_replicate]
theorem witness_KeyWaitHoldsWhileTimersRun :
    (ready 0xF30A).enabled = true ∧ (ready 0xF30A).nextInput.poll = [] ∧
    decode (ready 0xF30A).fetchWord = .ldXK 3 ∧ ∀ k : Nat, (ready 0xF30A).key[k]? ≠ some true := by
  refine ⟨by decide, by decide, by decide, fun k => ?_⟩
  have h : (ready 0xF30A).key = Vector.replicate 16 false := by decide
  simp [h, Vector.getElem?_replicate]
theorem witness_TimersFallByAtMostOnePerStep :
    (∀ x, decode (ready 0x1200).fetchWord ≠ .ldDtX x) ∧ (∀ x, decode (ready 0x1200).fetchWord ≠ .ldStX x) ∧
    ∃ t, step (ready 0x1200) = .next t := by
  exact ⟨by decide, by decide, exists_next_of_isNext (by decide +kernel)⟩
/-- A state with a program, `Fx29` itself, above the font. -/
theorem witness_FontGlyphReachedByFx29 :
    (∀ a, (h : a < 80) → ((ready 0xF029).setReg 0 15).memRead a = ((ready 0xF029).setReg 0 15).cfg.font[a]) ∧
    (((ready 0xF029).setReg 0 15).reg 0).toNat < 16 := by decide
theorem witness_FontGlyph_last_byte : 4 < 5 ∧ 5 * ((withRegs [(0, 15)]).reg 0).toNat + 4 < 80 := by decide
theorem witness_BootLoadsRomOrRefuses :
    (List.replicate 3584 (0 : Byte)).length ≤ 3584 ∧ 3584 < (List.replicate 3585 (0 : Byte)).length := by
  rw [List.length_replicate, List.length_replicate]
  decide
/-- The last byte that fits at another address than 0x200; and a load is accepted. -/
theorem witness_LoadIsAcceptedOnceWhereItFits :
    State.reset.iter = 0 ∧ State.reset.loaded = false ∧ 0xFFE + [(1 : Byte), 2].length ≤ 4096 ∧
    ∃ t, hostLoad 0xFFE [1, 2] State.reset = .next t := ⟨rfl, rfl, by decide, _, rfl⟩
theorem witness_NoLoadAfterTheFirstStep : ∃ t, step (ready 0x1200) = .next t :=
  exists_next_of_isNext (by decide +kernel)

end Sys2Proof.Tests
end

section
/-! The frame of an instruction's end, and the default row (40_dispatch.md R104, R108). -/

namespace Sys2Proof.Machine

/-! Footprints. -/

@[simp] theorem Footprint.Keeps.refl (f : Footprint) (s : State) : f.Keeps s s := by
  simp [Footprint.Keeps]

/-- The end of an instruction writes `pc` and the strobe, which stand outside every footprint. -/
@[simp] theorem Footprint.keeps_finish_iff (f : Footprint) (s t : State) (o : PcOutcome) (drew : Bool) :
    f.Keeps s (t.finish o drew) ↔ f.Keeps s t := by
  simp [Footprint.Keeps]

/-! The program counter as a number, modulo 65536 (40_dispatch.md R104). -/

theorem toNat_nextPc_next (pc : Word) : (nextPc pc .next).toNat = (pc.toNat + 2) % 65536 :=
  BitVec.toNat_add pc 2

/-! The default row. -/

theorem exec_unrecognized (w : Word) (s : State) : exec (.unrecognized w) s = s.retire .next false := rfl

/-- Settles O35: the default row only retires, with the outcome Next and no draw. -/
theorem unrecognizedWordIsNoOp : Obligations.UnrecognizedWordIsNoOp := by
  intro w s
  have hexec : exec (.unrecognized w) s = .next (s.finish .next false) := by
    rw [exec_unrecognized, State.retire_eq_next]
  have hpc : (s.finish .next false).pc.toNat = (s.pc.toNat + 2) % 65536 := by
    rw [State.finish_pc, toNat_nextPc_next]
  have hkeeps : Footprint.Keeps {} s (s.finish .next false) :=
    (Footprint.keeps_finish_iff ..).mpr (Footprint.Keeps.refl ..)
  exact ⟨_, hexec, hpc, State.finish_fbUpdated .., hkeeps⟩

end Sys2Proof.Machine
end

section
/-! Clearing the framebuffer (41_display.md R120). -/

namespace Sys2Proof.Machine

/-- A write of the whole framebuffer stays inside every footprint that has the display. -/
theorem Footprint.keeps_setFb_iff (f : Footprint) (hdisplay : f.display = true) (s t : State) (fb : Framebuffer) :
    f.Keeps s (t.setFb fb) ↔ f.Keeps s t := by
  simp [Footprint.Keeps, hdisplay]

@[simp] theorem fbByte_replicate_zero (j : Nat) : fbByte (Vector.replicate 256 0) j = 0 := by
  unfold fbByte
  rw [Vector.getElem?_replicate]
  by_cases hj : j < 256
  · rw [if_pos hj, Option.getD_some]
  · rw [if_neg hj, Option.getD_none]

theorem exec_cls (s : State) : exec .cls s = (s.setFb (Vector.replicate 256 0)).retire .next true := rfl

/-- Settles O25: `00E0` replaces the framebuffer by zeros and retires with the outcome Next and a draw. -/
theorem clsClearsTheFramebuffer : Obligations.ClsClearsTheFramebuffer := by
  intro s
  refine ⟨(s.setFb (Vector.replicate 256 0)).finish .next true, ?answers, fun j _ => ?cleared, ?pc,
    State.finish_fbUpdated .., ?frame⟩
  case answers => rw [exec_cls, State.retire_eq_next]
  case cleared => rw [State.finish_fb, State.setFb_fb, fbByte_replicate_zero]
  case pc => rw [State.finish_pc, State.setFb_pc, nextPc]
  case frame => rw [Footprint.keeps_finish_iff, Footprint.keeps_setFb_iff _ rfl]; exact Footprint.Keeps.refl ..

end Sys2Proof.Machine
end

section
/-! The conditional skips (40_dispatch.md R104, R106, 42_flow.md R146 to R149). -/

namespace Sys2Proof.Machine

theorem toNat_nextPc_skip (pc : Word) : (nextPc pc .skip).toNat = (pc.toNat + 4) % 65536 :=
  BitVec.toNat_add pc 4

theorem toNat_nextPc_ite (pc : Word) (p : Prop) [Decidable p] :
    (nextPc pc (if p then .skip else .next)).toNat = (pc.toNat + if p then 4 else 2) % 65536 := by
  by_cases hp : p
  · rw [if_pos hp, if_pos hp, toNat_nextPc_skip]
  · rw [if_neg hp, if_neg hp, toNat_nextPc_next]

/-- What a skip does, for a test that decides the proposition `p`: it only retires, with `pc` advanced by 4 or by 2. -/
theorem State.skipIf_spec (s : State) {test : Bool} {p : Prop} [Decidable p] (htest : test = true ↔ p) :
    ∃ t, s.skipIf test = .next t ∧ t.fbUpdated = false ∧ Footprint.Keeps {} s t ∧
      t.pc.toNat = (s.pc.toNat + if p then 4 else 2) % 65536 := by
  refine ⟨s.finish (if test then .skip else .next) false, ?answers, State.finish_fbUpdated .., ?frame, ?pc⟩
  case answers => rw [State.skipIf, State.retire_eq_next]
  case frame => rw [Footprint.keeps_finish_iff]; exact Footprint.Keeps.refl ..
  case pc => simp only [State.finish_pc, toNat_nextPc_ite, htest]

theorem exec_seImm (x : Reg) (kk : Byte) (s : State) : exec (.seImm x kk) s = s.skipIf (s.reg x == kk) := rfl

theorem exec_sneImm (x : Reg) (kk : Byte) (s : State) : exec (.sneImm x kk) s = s.skipIf (s.reg x != kk) := rfl

theorem exec_seReg (x y : Reg) (s : State) : exec (.seReg x y) s = s.skipIf (s.reg x == s.reg y) := rfl

theorem exec_sneReg (x y : Reg) (s : State) : exec (.sneReg x y) s = s.skipIf (s.reg x != s.reg y) := rfl

/-- Settles O33: both are skips, whose tests decide V[x] = kk and V[x] ≠ kk. -/
theorem immediateSkips : Obligations.ImmediateSkips := by
  intro x kk s
  rw [exec_seImm, exec_sneImm]
  exact ⟨s.skipIf_spec beq_iff_eq, s.skipIf_spec bne_iff_ne⟩

/-- Settles O34: both are skips, whose tests decide V[x] = V[y] and V[x] ≠ V[y]. -/
theorem registerSkips : Obligations.RegisterSkips := by
  intro x y s
  rw [exec_seReg, exec_sneReg]
  exact ⟨s.skipIf_spec beq_iff_eq, s.skipIf_spec bne_iff_ne⟩

end Sys2Proof.Machine
end

section
/-! The register writes that leave no flag: loads, `7xkk`, copy and logic (43_alu.md R160 to R165, R173). -/

namespace Sys2Proof.Machine

/-- A register write stays inside every footprint that names the register. -/
theorem Footprint.keeps_setReg_iff (f : Footprint) {x : Reg} (hx : x ∈ f.regs) (s t : State) (b : Byte) :
    f.Keeps s (t.setReg x b) ↔ f.Keeps s t := by
  have hother : ∀ r, r ∉ f.regs → (t.setReg x b).reg r = t.reg r := fun r hr =>
    State.reg_setReg_ne t b (ne_of_mem_of_not_mem hx hr).symm
  simp +contextual [Footprint.Keeps, hother]

/-- What the shared end of these instructions does: it answers with `b` in V[x], and nothing else but `pc` and the
strobe is written. -/
theorem State.writeReg_spec (s : State) (x : Reg) (b : Byte) :
    ∃ t, s.writeReg x b = .next t ∧ t.reg x = b ∧ t.pc = s.pc + 2 ∧ t.fbUpdated = false ∧
      Footprint.Keeps { regs := [x] } s t := by
  refine ⟨(s.setReg x b).finish .next false, ?answers, ?result, ?pc, State.finish_fbUpdated .., ?frame⟩
  case answers => rw [State.writeReg, State.retire_eq_next]
  case result => rw [State.reg_finish, State.reg_setReg_self]
  case pc => rw [State.finish_pc, State.setReg_pc, nextPc_next]
  case frame =>
    rw [Footprint.keeps_finish_iff, Footprint.keeps_setReg_iff _ List.mem_cons_self]
    exact Footprint.Keeps.refl ..

theorem exec_ldImm (x : Reg) (kk : Byte) (s : State) : exec (.ldImm x kk) s = s.writeReg x kk := rfl

theorem exec_addImm (x : Reg) (kk : Byte) (s : State) : exec (.addImm x kk) s = s.writeReg x (s.reg x + kk) := rfl

theorem exec_ldReg (x y : Reg) (s : State) : exec (.ldReg x y) s = s.writeReg x (s.reg y) := rfl

theorem exec_orReg (x y : Reg) (s : State) : exec (.orReg x y) s = s.writeReg x (s.reg x ||| s.reg y) := rfl

theorem exec_andReg (x y : Reg) (s : State) : exec (.andReg x y) s = s.writeReg x (s.reg x &&& s.reg y) := rfl

theorem exec_xorReg (x y : Reg) (s : State) : exec (.xorReg x y) s = s.writeReg x (s.reg x ^^^ s.reg y) := rfl

/-- Settles O36: both are register writes, of kk and of the byte sum V[x] + kk, which is the sum modulo 256. -/
theorem immediateLoadAndAdd : Obligations.ImmediateLoadAndAdd := by
  intro x kk s
  rw [exec_ldImm, exec_addImm]
  refine ⟨s.writeReg_spec x kk, ?add⟩
  case add =>
    obtain ⟨t, hanswers, hresult, hrest⟩ := s.writeReg_spec x (s.reg x + kk)
    exact ⟨t, hanswers, by rw [hresult, BitVec.toNat_add], hrest⟩

/-- Settles O37: all four are register writes, of V[y] and of the bitwise operations, read bit by bit. -/
theorem copyAndLogic : Obligations.CopyAndLogic := by
  intro x y s
  rw [exec_ldReg, exec_orReg, exec_andReg, exec_xorReg]
  refine ⟨s.writeReg_spec x (s.reg y), ?or, ?and, ?xor⟩
  case or =>
    obtain ⟨t, hanswers, hresult, hrest⟩ := s.writeReg_spec x (s.reg x ||| s.reg y)
    exact ⟨t, hanswers, fun k _ => by rw [hresult, BitVec.getLsbD_or], hrest⟩
  case and =>
    obtain ⟨t, hanswers, hresult, hrest⟩ := s.writeReg_spec x (s.reg x &&& s.reg y)
    exact ⟨t, hanswers, fun k _ => by rw [hresult, BitVec.getLsbD_and], hrest⟩
  case xor =>
    obtain ⟨t, hanswers, hresult, hrest⟩ := s.writeReg_spec x (s.reg x ^^^ s.reg y)
    exact ⟨t, hanswers, fun k _ => by rw [hresult, BitVec.getLsbD_xor], hrest⟩

end Sys2Proof.Machine
end

section
/-! The stores at the index register (44_index_memory.md R183, R186). -/

namespace Sys2Proof.Machine

/-- A run of writes stays inside every footprint that names all its addresses. -/
theorem Footprint.keeps_memWriteBytes_iff (f : Footprint) (s t : State) (a : Nat) (bs : List Byte)
    (hstored : ∀ j, j < bs.length → (a + j) % 4096 ∈ f.stored) :
    f.Keeps s (t.memWriteBytes a bs) ↔ f.Keeps s t := by
  have houtside : ∀ c, c % 4096 ∉ f.stored → (t.memWriteBytes a bs).memRead c = t.memRead c := fun c hc =>
    State.memRead_memWriteBytes_of_outside t a c bs fun j hj => (ne_of_mem_of_not_mem (hstored j hj) hc).symm
  simp +contextual [Footprint.Keeps, houtside]

/-- What the shared end of the stores does: it answers with the bytes at their effective addresses, and nothing else
but `pc` and the strobe is written. -/
theorem State.retire_memWriteBytes_index_spec (s : State) (bs : List Byte) (hlength : bs.length ≤ 4096) :
    ∃ t, (s.memWriteBytes s.i.toNat bs).retire .next false = .next t ∧
      (∀ j, (hj : j < bs.length) → t.memRead (s.effAddr j) = bs[j]) ∧ t.pc = s.pc + 2 ∧ t.fbUpdated = false ∧
      Footprint.Keeps { stored := (List.range bs.length).map s.effAddr } s t := by
  refine ⟨(s.memWriteBytes s.i.toNat bs).finish .next false, ?answers, fun j hj => ?bytes, ?pc,
    State.finish_fbUpdated .., ?frame⟩
  case answers => rw [State.retire_eq_next]
  case bytes =>
    rw [State.memRead_finish, State.effAddr, State.memRead_mod,
      State.memRead_memWriteBytes_of_inside _ _ _ _ hj hlength]
  case pc => rw [State.finish_pc, State.memWriteBytes_pc, nextPc_next]
  case frame =>
    have hstored : ∀ j, j < bs.length → s.effAddr j ∈ (List.range bs.length).map s.effAddr := fun j hj =>
      List.mem_map_of_mem (List.mem_range.mpr hj)
    rw [Footprint.keeps_finish_iff, Footprint.keeps_memWriteBytes_iff _ _ _ _ _ hstored]
    exact Footprint.Keeps.refl ..

@[simp] theorem length_decimalDigits (b : Byte) : (decimalDigits b).length = 3 := rfl

/-- Each digit is below 10, so the byte that holds it is the digit. -/
theorem toNat_getElem_decimalDigits (b : Byte) :
    (decimalDigits b)[0].toNat = b.toNat / 100 ∧ (decimalDigits b)[1].toNat = b.toNat / 10 % 10 ∧
      (decimalDigits b)[2].toNat = b.toNat % 10 := by
  have hhundreds : b.toNat / 100 < 2 ^ 8 := by omega
  have htens : b.toNat / 10 % 10 < 2 ^ 8 := by omega
  have hones : b.toNat % 10 < 2 ^ 8 := by omega
  exact ⟨Nat.mod_eq_of_lt hhundreds, Nat.mod_eq_of_lt htens, Nat.mod_eq_of_lt hones⟩

theorem exec_ldB (x : Reg) (s : State) :
    exec (.ldB x) s = (s.memWriteBytes s.i.toNat (decimalDigits (s.reg x))).retire .next false := rfl

/-- Settles O43: `Fx33` is a store of the three digits of V[x], each at its own effective address. -/
theorem storeDecimalDigits : Obligations.StoreDecimalDigits := by
  intro x s
  obtain ⟨t, hanswers, hbytes, hrest⟩ :=
    s.retire_memWriteBytes_index_spec (decimalDigits (s.reg x)) (by rw [length_decimalDigits]; decide)
  obtain ⟨hhundreds, htens, hones⟩ := toNat_getElem_decimalDigits (s.reg x)
  refine ⟨t, (exec_ldB x s).trans hanswers, ?hundreds, ?tens, ?ones, hrest⟩
  case hundreds => exact (congrArg BitVec.toNat (hbytes 0 _)).trans hhundreds
  case tens => exact (congrArg BitVec.toNat (hbytes 1 _)).trans htens
  case ones => exact (congrArg BitVec.toNat (hbytes 2 _)).trans hones

end Sys2Proof.Machine
end

section
/-! The tick of the timers (10_state.md R29, 60_exceptions.md R231). -/

namespace Sys2Proof.Machine

/-- A tick on one timer as a subtraction of naturals, whose truncation at 0 is R231's test that the timer runs. -/
theorem toNat_decayTimer_true (b : Byte) : (decayTimer true b).toNat = b.toNat - 1 := by
  unfold decayTimer
  by_cases hstopped : b = 0
  · rw [if_pos hstopped, hstopped]
    decide
  · have hruns : 1 ≤ b := Nat.pos_of_ne_zero fun hzero => hstopped (BitVec.eq_of_toNat_eq hzero)
    rw [if_neg hstopped, if_pos rfl]
    exact BitVec.toNat_sub_of_le hruns

@[simp] theorem State.tick_dt (s : State) : s.tick.dt = decayTimer true s.dt := rfl
@[simp] theorem State.tick_st (s : State) : s.tick.st = decayTimer true s.st := rfl

/-- A tick writes the two timers and no other component. -/
theorem State.tick_frame (s : State) : s.tick = { s with dt := s.tick.dt, st := s.tick.st } := rfl

/-- Settles O52: a tick decays both timers, each by its own value alone. -/
theorem tickDecrementsRunningTimers : Obligations.TickDecrementsRunningTimers := by
  intro s
  rw [State.tick_dt, State.tick_st]
  exact ⟨toNat_decayTimer_true s.dt, toNat_decayTimer_true s.st, s.tick_frame⟩

end Sys2Proof.Machine
end

section
/-! The formats read back into a word (30_encoding.md R71, R72), and the encoder undoing the decoder group by group
(R74 to R79). -/

namespace Sys2Proof

theorem encodeNNN_fields (w : Word) : encodeNNN (opField w) (nnnField w) = w := by
  refine BitVec.eq_of_getLsbD_eq fun k hk => ?_
  rw [getLsbD_encodeNNN]
  by_cases h12 : k < 12
  · simp [nnnField, h12]
  · have h4 : k - 12 < 4 := by omega
    have hback : 12 + (k - 12) = k := by omega
    simp [opField, h12, h4, hback]

/-- An `nnn` operand is an `x` above a `kk` (R71). -/
theorem nnnField_eq_append (w : Word) : nnnField w = xField w ++ kkField w := by
  refine BitVec.eq_of_getLsbD_eq fun k hk => ?_
  rw [BitVec.getLsbD_append]
  by_cases h8 : k < 8
  · simp [nnnField, kkField, h8, hk]
  · have h4 : k - 8 < 4 := by omega
    have hback : 8 + (k - 8) = k := by omega
    simp [nnnField, xField, h8, h4, hk, hback]

theorem encodeXKK_fields (w : Word) : encodeXKK (opField w) (xField w) (kkField w) = w := by
  refine Eq.trans ?_ (encodeNNN_fields w)
  rw [nnnField_eq_append]
  exact BitVec.append_assoc

/-- A `kk` operand is a `y` above an `n` (R71). -/
theorem kkField_eq_append (w : Word) : kkField w = yField w ++ nField w := by
  refine BitVec.eq_of_getLsbD_eq fun k hk => ?_
  rw [BitVec.getLsbD_append]
  by_cases h4 : k < 4
  · simp [kkField, nField, h4, hk]
  · have h8 : k - 4 < 4 := by omega
    have hback : 4 + (k - 4) = k := by omega
    simp [kkField, yField, h4, h8, hk, hback]

theorem encodeXYN_fields (w : Word) : encodeXYN (opField w) (xField w) (yField w) (nField w) = w := by
  refine Eq.trans ?_ (encodeXKK_fields w)
  rw [kkField_eq_append]
  exact BitVec.append_assoc

/-! A word whose fixed fields are those of a format, put together from its other fields. -/

theorem encodeNNN_of_op {w : Word} {o : BitVec 4} (ho : opField w = o) : encodeNNN o (nnnField w) = w :=
  ho ▸ encodeNNN_fields w

theorem encodeXKK_of_op {w : Word} {o : BitVec 4} (ho : opField w = o) : encodeXKK o (xField w) (kkField w) = w :=
  ho ▸ encodeXKK_fields w

theorem encodeXKK_of_op_kk {w : Word} {o : BitVec 4} {kk : Byte} (ho : opField w = o) (hkk : kkField w = kk) :
    encodeXKK o (xField w) kk = w :=
  hkk ▸ encodeXKK_of_op ho

theorem encodeXYN_of_op {w : Word} {o : BitVec 4} (ho : opField w = o) :
    encodeXYN o (xField w) (yField w) (nField w) = w :=
  ho ▸ encodeXYN_fields w

theorem encodeXYN_of_op_n {w : Word} {o : BitVec 4} {n : Nibble} (ho : opField w = o) (hn : nField w = n) :
    encodeXYN o (xField w) (yField w) n = w :=
  hn ▸ encodeXYN_of_op ho

/-! The encoder after the decoder, group by group. -/

theorem encode_decodeGroup0 (w : Word) : encode (decodeGroup0 w) = w := by
  unfold decodeGroup0
  split
  case isTrue hw => exact hw.symm
  case isFalse =>
    split
    case isTrue hw => exact hw.symm
    case isFalse => rfl

theorem encode_decodeRegSkip {skip : Reg → Reg → Instr} {o : BitVec 4} {w : Word} (ho : opField w = o)
    (hskip : ∀ x y, encode (skip x y) = encodeXYN o x y 0) : encode (decodeRegSkip skip w) = w := by
  unfold decodeRegSkip
  split
  case isTrue hn => rw [hskip]; exact encodeXYN_of_op_n ho hn
  case isFalse => rfl

theorem encode_decodeGroup8 {w : Word} (ho : opField w = 0x8) : encode (decodeGroup8 w) = w := by
  unfold decodeGroup8
  split
  case h_10 => rfl
  all_goals
    rename_i hn
    exact encodeXYN_of_op_n ho (BitVec.eq_of_toNat_eq hn)

theorem encode_decodeGroupE {w : Word} (ho : opField w = 0xE) : encode (decodeGroupE w) = w := by
  unfold decodeGroupE
  split_ifs
  case neg => rfl
  all_goals exact encodeXKK_of_op_kk ho ‹_›

theorem encode_decodeGroupF {w : Word} (ho : opField w = 0xF) : encode (decodeGroupF w) = w := by
  unfold decodeGroupF
  split_ifs
  case neg => rfl
  all_goals exact encodeXKK_of_op_kk ho ‹_›

/-- Sixteen groups, one for each value of the major opcode. -/
theorem encode_decode (w : Word) : encode (decode w) = w := by
  have hop : ∀ {k : Nat}, (opField w).toNat = k → opField w = BitVec.ofNat 4 k := fun h => by
    rw [← h, BitVec.ofNat_toNat, BitVec.setWidth_eq]
  unfold decode
  split
  case h_1 => exact encode_decodeGroup0 w
  case h_6 h => exact encode_decodeRegSkip (hop h) fun _ _ => rfl
  case h_9 h => exact encode_decodeGroup8 (hop h)
  case h_10 h => exact encode_decodeRegSkip (hop h) fun _ _ => rfl
  case h_14 h => exact encodeXYN_of_op (hop h)
  case h_15 h => exact encode_decodeGroupE (hop h)
  case h_16 =>
    have hlt := (opField w).isLt
    have h15 : (opField w).toNat = 15 := by simp only [imp_false] at *; omega
    exact encode_decodeGroupF (hop h15)
  case h_2 h | h_3 h | h_11 h | h_12 h => exact encodeNNN_of_op (hop h)
  case h_4 h | h_5 h | h_7 h | h_8 h | h_13 h => exact encodeXKK_of_op (hop h)

/-! Rows of the opcode table (30_encoding.md R74, R82, R83). -/

/-- Every instruction stands in its row of the table, constructor by constructor. -/
theorem row_covers_encode : ∀ {i : Instr}, i.wf = true → i.row.covers (encode i) = true := fun {i} =>
  match i with
  | .cls => Laws.TableRow.cls
  | .ret => Laws.TableRow.ret
  | .jp nnn => Laws.TableRow.jp nnn
  | .call nnn => Laws.TableRow.call nnn
  | .seImm x kk => Laws.TableRow.seImm x kk
  | .sneImm x kk => Laws.TableRow.sneImm x kk
  | .seReg x y => Laws.TableRow.seReg x y
  | .ldImm x kk => Laws.TableRow.ldImm x kk
  | .addImm x kk => Laws.TableRow.addImm x kk
  | .ldReg x y => Laws.TableRow.ldReg x y
  | .orReg x y => Laws.TableRow.orReg x y
  | .andReg x y => Laws.TableRow.andReg x y
  | .xorReg x y => Laws.TableRow.xorReg x y
  | .addReg x y => Laws.TableRow.addReg x y
  | .subReg x y => Laws.TableRow.subReg x y
  | .shr x y => Laws.TableRow.shr x y
  | .subn x y => Laws.TableRow.subn x y
  | .shl x y => Laws.TableRow.shl x y
  | .sneReg x y => Laws.TableRow.sneReg x y
  | .ldI nnn => Laws.TableRow.ldI nnn
  | .jpV0 nnn => Laws.TableRow.jpV0 nnn
  | .rnd x kk => Laws.TableRow.rnd x kk
  | .drw x y n => Laws.TableRow.drw x y n
  | .skp x => Laws.TableRow.skp x
  | .sknp x => Laws.TableRow.sknp x
  | .ldXDt x => Laws.TableRow.ldXDt x
  | .ldXK x => Laws.TableRow.ldXK x
  | .ldDtX x => Laws.TableRow.ldDtX x
  | .ldStX x => Laws.TableRow.ldStX x
  | .addI x => Laws.TableRow.addI x
  | .ldF x => Laws.TableRow.ldF x
  | .ldB x => Laws.TableRow.ldB x
  | .stRegs x => Laws.TableRow.stRegs x
  | .ldRegs x => Laws.TableRow.ldRegs x
  | .unrecognized w => Laws.TableRow.unrecognized w

theorem row_mem_opcodeRows {i : Instr} (hi : ∀ w, i ≠ .unrecognized w) : i.row ∈ opcodeRows := by
  cases i
  case unrecognized w => exact absurd rfl (hi w)
  all_goals simp [Instr.row, opcodeRows]

theorem recognized_eq_false_iff (w : Word) : recognized w = false ↔ ∀ r ∈ opcodeRows, r.covers w = false := by
  simp [recognized]

/-- The default row is not among the instruction rows. -/
theorem unrecognized_row_not_mem (w : Word) : (Instr.unrecognized w).row ∉ opcodeRows :=
  show OpcodeRow.mk 0 0 ∉ opcodeRows by decide



/-- The fixed bits of a row, field by field. -/
theorem fields_of_covers {r : OpcodeRow} {w : Word} (h : r.covers w = true) :
    w &&& r.mask = r.value ∧ opField w &&& opField r.mask = opField r.value ∧
      nField w &&& nField r.mask = nField r.value ∧ kkField w &&& kkField r.mask = kkField r.value := by
  have hand : w &&& r.mask = r.value := eq_of_beq h
  refine ⟨hand, ?_, ?_, ?_⟩
  all_goals
    rw [← hand]
    exact BitVec.extractLsb'_and.symm

/-- A word that an instruction row covers decodes into that row: row by row, the fixed fields pick the arm. -/
theorem row_decode_of_covers {r : OpcodeRow} {w : Word} (hr : r ∈ opcodeRows) (hw : r.covers w = true) :
    (decode w).row = r := by
  obtain ⟨hword, ho, hn, hkk⟩ := fields_of_covers hw
  have hnibble : ∀ b : BitVec 4, b &&& 15#4 = b := fun _ => BitVec.and_allOnes
  have hbyte : ∀ b : BitVec 8, b &&& 255#8 = b := fun _ => BitVec.and_allOnes
  have hfull : ∀ b : BitVec 16, b &&& 65535#16 = b := fun _ => BitVec.and_allOnes
  fin_cases hr
  all_goals
    simp [opField, nField, kkField, hnibble, hbyte, hfull] at hword ho hn hkk
    simp [decode, decodeGroup0, decodeRegSkip, decodeGroup8, decodeGroupE, decodeGroupF, Instr.row, opField, nField,
      kkField, hword, ho, hn, hkk]

theorem decode_ne_unrecognized_of_covers {r : OpcodeRow} {w v : Word} (hr : r ∈ opcodeRows) (hw : r.covers w = true) :
    decode w ≠ .unrecognized v := fun h =>
  unrecognized_row_not_mem v (h ▸ (row_decode_of_covers hr hw).symm ▸ hr)

/-- The default row holds the word it was decoded from. -/
theorem eq_of_decode_eq_unrecognized {w v : Word} (h : decode w = .unrecognized v) : v = w := by
  rw [← encode_decode w, h]
  rfl

theorem wf_decode (w : Word) : (decode w).wf = true := by
  cases hdec : decode w
  case unrecognized v =>
    have hvw : v = w := eq_of_decode_eq_unrecognized hdec
    have hnone : ∀ r ∈ opcodeRows, r.covers v = false := fun r hr =>
      eq_false_of_ne_true fun hcov => decode_ne_unrecognized_of_covers hr (hvw ▸ hcov) hdec
    exact congrArg (!·) ((recognized_eq_false_iff v).mpr hnone)
  all_goals rfl

/-- A word that no instruction row covers decodes to the default row (R80). -/
theorem decode_of_not_recognized {w : Word} (hw : ∀ r ∈ opcodeRows, r.covers w = false) :
    decode w = .unrecognized w := by
  by_contra hne
  have hinstr : ∀ v, decode w ≠ .unrecognized v := fun v hv => hne (eq_of_decode_eq_unrecognized hv ▸ hv)
  have hcovers := row_covers_encode (wf_decode w)
  rw [encode_decode, hw _ (row_mem_opcodeRows hinstr)] at hcovers
  cases hcovers

/-- Decoding the word of an instruction: the fields of its format are its operands, and its fixed fields pick its arm;
for the default row the word has no row, so no arm takes it. -/
theorem decode_encode {i : Instr} (hwf : i.wf = true) : decode (encode i) = i := by
  cases i
  case unrecognized w =>
    exact decode_of_not_recognized ((recognized_eq_false_iff w).mp (by simpa [Instr.wf] using hwf))
  case cls | ret => decide
  all_goals simp [encode, decode, decodeRegSkip, decodeGroup8, decodeGroupE, decodeGroupF]

/-- Settles O1: the arm of each instruction reads its operands back. -/
theorem decodeInvertsEncode : Obligations.DecodeInvertsEncode := fun _ hwf => decode_encode hwf

/-- Settles O2: each arm keeps every field of the word, and the default row holds a word that no row covers. -/
theorem encodeInvertsDecode : Obligations.EncodeInvertsDecode := fun w => ⟨encode_decode w, wf_decode w⟩

/-- Settles O5: nine closed words, each decoded by evaluation. -/
theorem sampleWordsDecode : Obligations.SampleWordsDecode := by
  unfold Obligations.SampleWordsDecode
  decide

/-- Settles O3: the row of what a word decodes to covers the word, and any row that covers it is the row of what it
decodes to. -/
theorem everyWordMatchesExactlyOneRow : Obligations.EveryWordMatchesExactlyOneRow := by
  intro w
  have hcovers : (decode w).row.covers w = true := by
    simpa only [encode_decode] using row_covers_encode (wf_decode w)
  refine ⟨hcovers, fun r hr hw => (row_decode_of_covers hr hw).symm, fun hdef r hr => ?_, decode_of_not_recognized⟩
  exact eq_false_of_ne_true fun hw => decode_ne_unrecognized_of_covers hr hw hdef

end Sys2Proof
end

section
/-! The unrecognized words (30_encoding.md R80): the six sets, and their number. -/

namespace Sys2Proof

theorem decodeGroup0_eq_unrecognized_iff (w : Word) :
    decodeGroup0 w = .unrecognized w ↔ w ≠ 0x00E0 ∧ w ≠ 0x00EE := by
  unfold decodeGroup0
  split_ifs <;> simp_all

theorem decodeRegSkip_eq_unrecognized_iff {skip : Reg → Reg → Instr} (w : Word)
    (hskip : ∀ x y, skip x y ≠ .unrecognized w) : decodeRegSkip skip w = .unrecognized w ↔ nField w ≠ 0 := by
  unfold decodeRegSkip
  split_ifs <;> simp_all

theorem decodeGroup8_eq_unrecognized_iff (w : Word) :
    decodeGroup8 w = .unrecognized w ↔ nField w ∈ [0x8, 0x9, 0xA, 0xB, 0xC, 0xD, 0xF] := by
  have hn : ∀ n : Nibble, n ∈ ([0x8, 0x9, 0xA, 0xB, 0xC, 0xD, 0xF] : List Nibble) ↔
      n.toNat ∉ [0x0, 0x1, 0x2, 0x3, 0x4, 0x5, 0x6, 0x7, 0xE] := by decide
  unfold decodeGroup8
  rw [hn]
  split <;> simp_all

theorem decodeGroupE_eq_unrecognized_iff (w : Word) :
    decodeGroupE w = .unrecognized w ↔ kkField w ∉ [0x9E, 0xA1] := by
  unfold decodeGroupE
  split_ifs <;> simp_all

theorem decodeGroupF_eq_unrecognized_iff (w : Word) :
    decodeGroupF w = .unrecognized w ↔ kkField w ∉ [0x07, 0x0A, 0x15, 0x18, 0x1E, 0x29, 0x33, 0x55, 0x65] := by
  unfold decodeGroupF
  split_ifs <;> simp_all

/-- A word decodes to the default row exactly when it lies in one of R80's six sets. -/
theorem decode_eq_unrecognized_iff (w : Word) :
    decode w = .unrecognized w ↔
      (opField w = 0x0 ∧ w ≠ 0x00E0 ∧ w ≠ 0x00EE) ∨ (opField w = 0x5 ∧ nField w ≠ 0) ∨
      (opField w = 0x8 ∧ nField w ∈ [0x8, 0x9, 0xA, 0xB, 0xC, 0xD, 0xF]) ∨ (opField w = 0x9 ∧ nField w ≠ 0) ∨
      (opField w = 0xE ∧ kkField w ∉ [0x9E, 0xA1]) ∨
      (opField w = 0xF ∧ kkField w ∉ [0x07, 0x0A, 0x15, 0x18, 0x1E, 0x29, 0x33, 0x55, 0x65]) := by
  rw [← decodeGroup0_eq_unrecognized_iff, ← decodeGroup8_eq_unrecognized_iff, ← decodeGroupE_eq_unrecognized_iff,
    ← decodeGroupF_eq_unrecognized_iff, ← decodeRegSkip_eq_unrecognized_iff (skip := .seReg) w (by simp)]
  have hop : ∀ k : BitVec 4, opField w = k ↔ (opField w).toNat = k.toNat := fun _ => BitVec.toNat_inj.symm
  have hlt := (opField w).isLt
  simp only [hop]
  unfold decode
  split <;> simp_all [decodeRegSkip_eq_unrecognized_iff]
  omega

/-! Their number, counted by the high byte of the word. -/

theorem toNat_opField (w : Word) : (opField w).toNat = w.toNat / 4096 := by
  rw [opField, BitVec.extractLsb'_toNat, Nat.shiftRight_eq_div_pow]
  omega

theorem toNat_nField (w : Word) : (nField w).toNat = w.toNat % 16 := by
  rw [nField, BitVec.extractLsb'_toNat, Nat.shiftRight_zero]

theorem toNat_kkField (w : Word) : (kkField w).toNat = w.toNat % 256 := by
  rw [kkField, BitVec.extractLsb'_toNat, Nat.shiftRight_zero]

/-- R80's six sets on the two bytes of a word, as numbers. -/
def unrecognizedBytes (hi lo : Nat) : Bool :=
  match hi / 16 with
  | 0x0 => hi != 0 || (lo != 0xE0 && lo != 0xEE)
  | 0x5 | 0x9 => lo % 16 != 0
  | 0x8 => [0x8, 0x9, 0xA, 0xB, 0xC, 0xD, 0xF].contains (lo % 16)
  | 0xE => !([0x9E, 0xA1].contains lo)
  | 0xF => !([0x07, 0x0A, 0x15, 0x18, 0x1E, 0x29, 0x33, 0x55, 0x65].contains lo)
  | _ => false

theorem decode_ofNat_eq_unrecognized_iff {hi lo : Nat} (hhi : hi < 256) (hlo : lo < 256) :
    decode (BitVec.ofNat 16 (256 * hi + lo)) = .unrecognized (BitVec.ofNat 16 (256 * hi + lo)) ↔
      unrecognizedBytes hi lo = true := by
  have hword : (BitVec.ofNat 16 (256 * hi + lo)).toNat = 256 * hi + lo := by
    rw [BitVec.toNat_ofNat]; omega
  have hop : (256 * hi + lo) / 4096 = hi / 16 := by omega
  have hn : (256 * hi + lo) % 16 = lo % 16 := by omega
  have hkk : (256 * hi + lo) % 256 = lo := by omega
  rw [decode_eq_unrecognized_iff]
  generalize BitVec.ofNat 16 (256 * hi + lo) = w at hword
  simp only [← BitVec.toNat_inj, toNat_opField, toNat_nField, toNat_kkField, List.mem_cons, List.not_mem_nil, ne_eq,
    hword, hop, hn, hkk, unrecognizedBytes]
  clear hword hop hn hkk
  split <;> simp_all
  omega

/-- How many low bytes complete a high byte to an unrecognized word. -/
def unrecognizedLows (hi : Nat) : Nat :=
  match hi / 16 with
  | 0x0 => if hi = 0 then 254 else 256
  | 0x5 | 0x9 => 240
  | 0x8 => 112
  | 0xE => 254
  | 0xF => 247
  | _ => 0

theorem countP_unrecognizedBytes (hi : Nat) :
    (List.range 256).countP (unrecognizedBytes hi) = unrecognizedLows hi := by
  unfold unrecognizedBytes unrecognizedLows
  split
  case h_1 =>
    by_cases h0 : hi = 0
    · subst h0; decide +kernel
    · have hbne : (hi != 0) = true := bne_iff_ne.mpr h0
      simp [h0, hbne]
  case h_7 => simp
  all_goals decide +kernel

/-- A count over a product is a sum of counts over its blocks. -/
theorem countP_range_mul (p : Nat → Bool) (m n : Nat) :
    (List.range (n * m)).countP p = ((List.range m).map fun i => (List.range n).countP fun j => p (n * i + j)).sum := by
  induction m with
  | zero => rfl
  | succ m ih =>
    rw [Nat.mul_succ, List.range_add, List.countP_append, List.countP_map, ih, List.range_succ, List.map_append,
      List.sum_append]
    simp [Function.comp_def]

/-- Settles O4: group by group, the words that no arm of the decoder takes; their number is a sum over high bytes. -/
theorem unrecognizedWordsAreTheSixSets : Obligations.UnrecognizedWordsAreTheSixSets := by
  refine ⟨decode_eq_unrecognized_iff, ?_⟩
  rw [countP_range_mul _ 256 256]
  trans ((List.range 256).map unrecognizedLows).sum
  · refine congrArg List.sum (List.map_congr_left fun hi hhi => ?_)
    rw [← countP_unrecognizedBytes]
    refine List.countP_congr fun lo hlo => ?_
    rw [decide_eq_true_iff]
    exact decode_ofNat_eq_unrecognized_iff (List.mem_range.mp hhi) (List.mem_range.mp hlo)
  · decide +kernel

end Sys2Proof
end

section
/-! One equation for each instruction that has none above: the shared end its meaning calls (40_dispatch.md R102). -/

namespace Sys2Proof.Machine

theorem exec_ret (s : State) : exec .ret s = execRet s := rfl

theorem exec_jp (nnn : Addr12) (s : State) : exec (.jp nnn) s = s.retire (.jump (zext16 nnn)) false := rfl

theorem exec_call (nnn : Addr12) (s : State) : exec (.call nnn) s = execCall nnn s := rfl

theorem exec_jpV0 (nnn : Addr12) (s : State) :
    exec (.jpV0 nnn) s = s.retire (.jump (zext16 nnn + zext16 (s.reg V0))) false := rfl

theorem exec_addReg (x y : Reg) (s : State) :
    exec (.addReg x y) s = s.writeFlagReg (carryFlag (s.reg x) (s.reg y)) x (s.reg x + s.reg y) := rfl

theorem exec_subReg (x y : Reg) (s : State) :
    exec (.subReg x y) s = s.writeFlagReg (greaterFlag (s.reg x) (s.reg y)) x (s.reg x - s.reg y) := rfl

theorem exec_shr (x y : Reg) (s : State) :
    exec (.shr x y) s = s.writeFlagReg (shiftRightFlag (s.reg x)) x (s.reg x >>> 1) := rfl

theorem exec_subn (x y : Reg) (s : State) :
    exec (.subn x y) s = s.writeFlagReg (greaterFlag (s.reg y) (s.reg x)) x (s.reg y - s.reg x) := rfl

theorem exec_shl (x y : Reg) (s : State) :
    exec (.shl x y) s = s.writeFlagReg (shiftLeftFlag (s.reg x)) x (s.reg x <<< 1) := rfl

theorem exec_rnd (x : Reg) (kk : Byte) (s : State) : exec (.rnd x kk) s = s.writeReg x (s.rand &&& kk) := rfl

theorem exec_ldI (nnn : Addr12) (s : State) : exec (.ldI nnn) s = s.writeIndex (zext16 nnn) := rfl

theorem exec_addI (x : Reg) (s : State) : exec (.addI x) s = s.writeIndex (s.i + zext16 (s.reg x)) := rfl

theorem exec_ldF (x : Reg) (s : State) : exec (.ldF x) s = s.writeIndex (zext16 (s.reg x) * 5) := rfl

theorem exec_stRegs (x : Reg) (s : State) :
    exec (.stRegs x) s = (s.memWriteBytes s.i.toNat (s.regsUpTo x)).retire .next false := rfl

theorem exec_ldRegs (x : Reg) (s : State) :
    exec (.ldRegs x) s = (s.setRegs 0 (s.memReadBytes s.i.toNat (x.toNat + 1))).retire .next false := rfl

theorem exec_skp (x : Reg) (s : State) : exec (.skp x) s = s.skipIf (s.pressed (s.reg x)) := rfl

theorem exec_sknp (x : Reg) (s : State) : exec (.sknp x) s = s.skipIf (!s.pressed (s.reg x)) := rfl

theorem exec_ldXDt (x : Reg) (s : State) : exec (.ldXDt x) s = s.writeReg x s.dt := rfl

theorem exec_ldXK (x : Reg) (s : State) : exec (.ldXK x) s = execLdXK x s := rfl

theorem exec_ldDtX (x : Reg) (s : State) : exec (.ldDtX x) s = (s.setDelay (s.reg x)).retire .next false := rfl

theorem exec_ldStX (x : Reg) (s : State) : exec (.ldStX x) s = (s.setSound (s.reg x)).retire .next false := rfl

theorem exec_drw (x y : Reg) (n : Nibble) (s : State) : exec (.drw x y n) s = execDrw x y n s := rfl

theorem toNat_pc_add_two (pc : Word) : (pc + 2).toNat = (pc.toNat + 2) % 65536 := toNat_nextPc_next pc

/-! The writes and the footprints they stay in. -/

theorem Footprint.keeps_setFlagThenReg_iff (f : Footprint) {x : Reg} (hx : x ∈ f.regs) (hVF : VF ∈ f.regs) (s t : State)
    (flag b : Byte) : f.Keeps s (t.setFlagThenReg flag x b) ↔ f.Keeps s t := by
  rw [State.setFlagThenReg, Footprint.keeps_setReg_iff f hx, Footprint.keeps_setReg_iff f hVF]

theorem Footprint.keeps_setRegs_iff (f : Footprint) (s t : State) (j : Nat) (bs : List Byte)
    (hregs : ∀ k, k < bs.length → BitVec.ofNat 4 (j + k) ∈ f.regs) : f.Keeps s (t.setRegs j bs) ↔ f.Keeps s t := by
  induction bs generalizing t j with
  | nil => rfl
  | cons b bs ih =>
    have htail : ∀ k, k < bs.length → BitVec.ofNat 4 (j + 1 + k) ∈ f.regs := fun k hk => by
      simpa only [Nat.add_assoc, Nat.add_comm k 1] using hregs (k + 1) (Nat.succ_lt_succ hk)
    have hhead : BitVec.ofNat 4 j ∈ f.regs := hregs 0 (Nat.succ_pos _)
    rw [State.setRegs, ih _ _ htail, Footprint.keeps_setReg_iff f hhead]

theorem Footprint.keeps_setIndex_iff (f : Footprint) (hindex : f.index = true) (s t : State) (a : Word) :
    f.Keeps s (t.setIndex a) ↔ f.Keeps s t := by
  simp [Footprint.Keeps, hindex]

theorem Footprint.keeps_setDelay_iff (f : Footprint) (hdelay : f.delay = true) (s t : State) (b : Byte) :
    f.Keeps s (t.setDelay b) ↔ f.Keeps s t := by
  simp [Footprint.Keeps, hdelay]

theorem Footprint.keeps_setSound_iff (f : Footprint) (hsound : f.sound = true) (s t : State) (b : Byte) :
    f.Keeps s (t.setSound b) ↔ f.Keeps s t := by
  simp [Footprint.Keeps, hsound]

theorem Footprint.keeps_setStack_iff (f : Footprint) (hstack : f.stack = true) (s t : State) (st : List Word) :
    f.Keeps s (t.setStack st) ↔ f.Keeps s t := by
  simp [Footprint.Keeps, hstack]

end Sys2Proof.Machine
end

section
/-! The register transfers at the index register (44_index_memory.md R184 to R186). -/

namespace Sys2Proof.Machine

theorem State.getElem_regsUpTo (s : State) (x : Reg) {j : Nat} (hj : j < (s.regsUpTo x).length) :
    (s.regsUpTo x)[j] = s.reg (BitVec.ofNat 4 j) := by
  simp [State.regsUpTo]

theorem State.length_regsUpTo_le (s : State) (x : Reg) : (s.regsUpTo x).length ≤ 4096 := by
  rw [State.length_regsUpTo]
  have hx := x.isLt
  omega

/-- Settles O44: `Fx55` is a store of V[0] to V[x], each at its own effective address. -/
theorem storeRegisters : Obligations.StoreRegisters := by
  intro x s
  obtain ⟨t, hanswers, hbytes, hpc, hstrobe, hkeeps⟩ :=
    s.retire_memWriteBytes_index_spec (s.regsUpTo x) (s.length_regsUpTo_le x)
  rw [State.length_regsUpTo] at hkeeps
  refine ⟨t, hanswers, fun j hj => ?_, hpc, hstrobe, hkeeps⟩
  rw [hbytes j (by rw [State.length_regsUpTo]; omega), State.getElem_regsUpTo]

/-- A read of consecutive registers after consecutive register writes from V[0] on. -/
theorem State.reg_setRegs_zero (s : State) {bs : List Byte} {j : Nat} (hlength : bs.length ≤ 16) (hj : j < bs.length) :
    (s.setRegs 0 bs).reg (BitVec.ofNat 4 j) = bs[j] := by
  have hindex : (BitVec.ofNat 4 j).toNat = j := Nat.mod_eq_of_lt (by omega)
  rw [State.reg_setRegs _ _ _ _ (by omega), if_pos (Nat.zero_le _), hindex, Nat.sub_zero, List.getElem?_eq_getElem hj,
    Option.getD_some]

/-- Settles O45: `Fx65` writes the bytes at the effective addresses to V[0] to V[x]. -/
theorem loadRegisters : Obligations.LoadRegisters := by
  intro x s
  have hx := x.isLt
  have hlength : (s.memReadBytes s.i.toNat (x.toNat + 1)).length = x.toNat + 1 := State.length_memReadBytes ..
  refine ⟨(s.setRegs 0 (s.memReadBytes s.i.toNat (x.toNat + 1))).finish .next false, exec_ldRegs x s,
    fun j hj => ?loaded, ?pc, State.finish_fbUpdated .., ?frame⟩
  case loaded =>
    rw [State.reg_finish, State.reg_setRegs_zero _ (by omega) (by omega), State.getElem_memReadBytes, State.effAddr,
      State.memRead_mod]
  case pc => rw [State.finish_pc, State.setRegs_pc, nextPc_next]
  case frame =>
    rw [Footprint.keeps_finish_iff, Footprint.keeps_setRegs_iff]
    · exact Footprint.Keeps.refl ..
    · intro k hk
      rw [Nat.zero_add]
      exact List.mem_map_of_mem (List.mem_range.mpr (hlength ▸ hk))

/-- Settles O46: the load reads at the same effective addresses what the store left there. -/
theorem storedRegistersLoadBack : Obligations.StoredRegistersLoadBack := by
  intro x s t u hstore hmem hindex
  obtain ⟨t', hanswers, hstored, -, -, hkeeps⟩ := storeRegisters x s
  obtain ⟨w, hloads, hloaded, -⟩ := loadRegisters x u
  obtain rfl : t' = t := Host.Outcome.next.inj (hanswers.symm.trans hstore)
  obtain ⟨-, -, hi, -⟩ := hkeeps
  refine ⟨w, hloads, fun j hj => ?_⟩
  have haddr : u.effAddr j = s.effAddr j := by rw [State.effAddr, hindex, hi rfl, State.effAddr]
  rw [hloaded j hj, haddr, hmem, hstored j hj]

/-! What the next fetch sees of a store (20_memory.md R54, R65). -/

theorem toNat_wordOfBytes (hi lo : Byte) : (wordOfBytes hi lo).toNat = hi.toNat * 256 + lo.toNat := by
  rw [wordOfBytes, BitVec.toNat_append, ← Nat.shiftLeft_add_eq_or_of_lt lo.isLt, Nat.shiftLeft_eq]

theorem fetchedByte_fetchWord (t : State) {k : Nat} (hk : k < 2) :
    fetchedByte t.fetchWord k = (t.memRead (t.pc.toNat + k)).toNat := by
  have hlo := (t.memRead (t.pc.toNat + 1)).isLt
  rw [State.fetchWord, fetchedByte, toNat_wordOfBytes]
  obtain rfl | rfl : k = 0 ∨ k = 1 := by omega
  · simp only [if_pos, Nat.add_zero]
    omega
  · rw [if_neg Nat.one_ne_zero]
    omega

theorem State.memRead_congr_mod (s : State) {a b : Nat} (h : a % 4096 = b % 4096) : s.memRead a = s.memRead b := by
  rw [← State.memRead_mod, h, State.memRead_mod]

/-- The poll leaves what the fetch reads. -/
theorem State.fetchWord_beginIteration (s : State) : s.beginIteration.fetchWord = s.fetchWord := by
  rw [State.beginIteration_eq]
  exact State.fetchWord_of_mem rfl rfl rfl

/-- A store at the effective addresses that goes on to the next word is what the next fetch sees. -/
theorem fetchSeesStored_of_stored {s t : State} {bs : List Byte}
    (hbytes : ∀ j, (hj : j < bs.length) → t.memRead (s.effAddr j) = bs[j]) (hpc : t.pc = s.pc + 2)
    (hkeeps : Footprint.Keeps { stored := (List.range bs.length).map s.effAddr } s t) :
    FetchSeesStored s t (bs.map BitVec.toNat) := by
  obtain ⟨-, houtside, -⟩ := hkeeps
  refine ⟨t.fetchWord_beginIteration, fun k hk => ?_⟩
  have haddr : t.memRead (t.pc.toNat + k) = t.memRead (s.pc.toNat + 2 + k) :=
    t.memRead_congr_mod (by rw [hpc, toNat_pc_add_two]; omega)
  rw [fetchedByte_fetchWord t hk, haddr]
  constructor
  · intro j v hv hj
    rw [List.getElem?_map] at hv
    obtain ⟨b, hb, rfl⟩ := Option.map_eq_some_iff.mp hv
    obtain ⟨hjlt, rfl⟩ := List.getElem?_eq_some_iff.mp hb
    rw [← State.memRead_mod, hj, hbytes j hjlt]
  · intro hnot
    rw [houtside]
    simp only [List.mem_map, List.mem_range, not_exists, not_and]
    exact fun j hj heq => hnot j (by rwa [List.length_map]) heq.symm

theorem map_toNat_regsUpTo (s : State) (x : Reg) :
    (s.regsUpTo x).map BitVec.toNat = (List.range (x.toNat + 1)).map fun j => (s.reg (BitVec.ofNat 4 j)).toNat := by
  rw [State.regsUpTo, List.map_map]
  rfl

theorem map_toNat_decimalDigits (b : Byte) :
    (decimalDigits b).map BitVec.toNat = [b.toNat / 100, b.toNat / 10 % 10, b.toNat % 10] := by
  obtain ⟨hhundreds, htens, hones⟩ := toNat_getElem_decimalDigits b
  rw [← hhundreds, ← htens, ← hones]
  rfl

/-- Settles O47: both instructions store at the effective addresses and go on to the next word. -/
theorem storeIsSeenByTheNextFetch : Obligations.StoreIsSeenByTheNextFetch := by
  intro x s
  have hstore : ∀ bs : List Byte, bs.length ≤ 4096 →
      ∃ t, (s.memWriteBytes s.i.toNat bs).retire .next false = .next t ∧ FetchSeesStored s t (bs.map BitVec.toNat) :=
    fun bs hlength =>
      let ⟨t, hanswers, hbytes, hpc, _, hkeeps⟩ := s.retire_memWriteBytes_index_spec bs hlength
      ⟨t, hanswers, fetchSeesStored_of_stored hbytes hpc hkeeps⟩
  rw [exec_stRegs, exec_ldB, ← map_toNat_regsUpTo, ← map_toNat_decimalDigits]
  exact ⟨hstore _ (s.length_regsUpTo_le x), hstore _ (by rw [length_decimalDigits]; decide)⟩

end Sys2Proof.Machine
end

section
/-! What an instruction can be: it raises its one fault, or it answers within its footprint. The rules for all
instructions follow (30_encoding.md R81, 40_dispatch.md R109, 60_exceptions.md R221, 10_state.md R21 to R42). -/

namespace Sys2Proof.Machine

/-- `00E0` and `Dxyn`, the instructions that draw (40_dispatch.md R109). -/
def draws (i : Instr) : Bool := i matches .cls | .drw _ _ _

/-- What an instruction may change when it raises nothing. -/
def footprint (s : State) (i : Instr) : Footprint where
  regs := regsWritten i
  stored :=
    match i with
    | .ldB _ => (List.range 3).map s.effAddr
    | .stRegs x => (List.range (x.toNat + 1)).map s.effAddr
    | _ => []
  index := i matches .ldI _ | .addI _ | .ldF _
  delay := i matches .ldDtX _
  sound := i matches .ldStX _
  stack := i matches .ret | .call _
  display := draws i

@[simp] theorem footprint_regs (s : State) (i : Instr) : (footprint s i).regs = regsWritten i := rfl

/-- The fault an instruction raises in a state, if any (60_exceptions.md R221). -/
def raisedFault (s : State) (i : Instr) : Option FaultReason :=
  match i with
  | .ret => if s.stack = [] then some .stackUnderflow else none
  | .call _ => if s.cfg.stackDepth = some s.stack.length then some .stackOverflow else none
  | _ => none

theorem raisedFault_eq_some_iff (s : State) (i : Instr) (r : FaultReason) :
    raisedFault s i = some r ↔
      (i = .ret ∧ s.stack = [] ∧ r = .stackUnderflow) ∨
      (∃ nnn, i = .call nnn ∧ s.cfg.stackDepth = some s.stack.length ∧ r = .stackOverflow) := by
  cases i <;> simp [raisedFault, eq_comm]

theorem exec_of_raisedFault {s : State} {i : Instr} {r : FaultReason} (h : raisedFault s i = some r) :
    exec i s = .next (s.takeFault r (encode i)) := by
  obtain ⟨rfl, hempty, rfl⟩ | ⟨nnn, rfl, hfull, rfl⟩ := (raisedFault_eq_some_iff s i r).mp h
  · rw [exec_ret, execRet_eq, hempty, State.raise]
  · rw [exec_call, execCall_eq, if_pos hfull, State.raise]

/-- An end of an instruction adds nothing to the footprint of what it wrote. -/
theorem Footprint.keeps_retire {f : Footprint} {s u : State} {drew : Bool} (o : PcOutcome) (h : f.Keeps s u) :
    ∃ t, u.retire o drew = .next t ∧ t.fbUpdated = drew ∧ f.Keeps s t :=
  ⟨u.finish o drew, rfl, rfl, (Footprint.keeps_finish_iff ..).mpr h⟩

/-- An instruction that raises nothing answers, with the strobe of a draw, and stays in its footprint. -/
theorem exec_keeps {s : State} {i : Instr} (h : raisedFault s i = none) :
    ∃ t, exec i s = .next t ∧ t.fbUpdated = draws i ∧ (footprint s i).Keeps s t := by
  cases i
  case ret =>
    rw [exec_ret, execRet_eq]
    cases hstack : s.stack with
    | nil => simp [raisedFault, hstack] at h
    | cons a rest => exact Footprint.keeps_retire _ ((Footprint.keeps_setStack_iff _ rfl ..).mpr (.refl ..))
  case call nnn =>
    have hroom : s.cfg.stackDepth ≠ some s.stack.length := fun hfull => by simp [raisedFault, hfull] at h
    rw [exec_call, execCall_eq, if_neg hroom]
    exact Footprint.keeps_retire _ ((Footprint.keeps_setStack_iff _ rfl ..).mpr (.refl ..))
  case jp | jpV0 | seImm | sneImm | seReg | sneReg | skp | sknp | unrecognized =>
    exact Footprint.keeps_retire _ (.refl ..)
  case ldImm | addImm | ldReg | orReg | andReg | xorReg | rnd | ldXDt =>
    exact Footprint.keeps_retire _ ((Footprint.keeps_setReg_iff _ List.mem_cons_self ..).mpr (.refl ..))
  case ldXK x =>
    rw [exec_ldXK, execLdXK]
    cases s.lowestKey with
    | none => exact Footprint.keeps_retire _ (.refl ..)
    | some k => exact Footprint.keeps_retire _ ((Footprint.keeps_setReg_iff _ List.mem_cons_self ..).mpr (.refl ..))
  case addReg | subReg | shr | subn | shl =>
    exact Footprint.keeps_retire _ ((Footprint.keeps_setFlagThenReg_iff _ List.mem_cons_self
      (List.mem_cons_of_mem _ List.mem_cons_self) ..).mpr (.refl ..))
  case ldI | addI | ldF => exact Footprint.keeps_retire _ ((Footprint.keeps_setIndex_iff _ rfl ..).mpr (.refl ..))
  case ldDtX => exact Footprint.keeps_retire _ ((Footprint.keeps_setDelay_iff _ rfl ..).mpr (.refl ..))
  case ldStX => exact Footprint.keeps_retire _ ((Footprint.keeps_setSound_iff _ rfl ..).mpr (.refl ..))
  case cls => exact Footprint.keeps_retire _ ((Footprint.keeps_setFb_iff _ rfl ..).mpr (.refl ..))
  case drw =>
    exact Footprint.keeps_retire _ ((Footprint.keeps_setReg_iff _ List.mem_cons_self ..).mpr
      ((Footprint.keeps_setFb_iff _ rfl ..).mpr (.refl ..)))
  case ldB x =>
    obtain ⟨t, hanswers, -, -, hstrobe, hkeeps⟩ :=
      s.retire_memWriteBytes_index_spec (decimalDigits (s.reg x)) (by rw [length_decimalDigits]; decide)
    exact ⟨t, hanswers, hstrobe, hkeeps⟩
  case stRegs x =>
    obtain ⟨t, hanswers, -, -, hstrobe, hkeeps⟩ := storeRegisters x s
    exact ⟨t, hanswers, hstrobe, hkeeps⟩
  case ldRegs x =>
    obtain ⟨t, hanswers, -, -, hstrobe, hkeeps⟩ := loadRegisters x s
    exact ⟨t, hanswers, hstrobe, hkeeps⟩

/-- Everything an instruction that answers can be. -/
theorem exec_cases {i : Instr} {s t : State} (h : exec i s = .next t) :
    (∃ r, raisedFault s i = some r ∧ t = s.takeFault r (encode i)) ∨
    (raisedFault s i = none ∧ t.fbUpdated = draws i ∧ (footprint s i).Keeps s t) := by
  cases hr : raisedFault s i with
  | some r => exact .inl ⟨r, rfl, Host.Outcome.next.inj (h.symm.trans (exec_of_raisedFault hr))⟩
  | none =>
    obtain ⟨u, hanswers, hrest⟩ := exec_keeps hr
    obtain rfl : u = t := Host.Outcome.next.inj (hanswers.symm.trans h)
    exact .inr ⟨rfl, hrest⟩

/-- Settles O11: an instruction that raises answers the state with its record, any other within its footprint. -/
theorem everyInstructionAnswersNext : Obligations.EveryInstructionAnswersNext := by
  intro i s
  cases hr : raisedFault s i with
  | some r => exact ⟨_, exec_of_raisedFault hr⟩
  | none =>
    obtain ⟨t, hanswers, -⟩ := exec_keeps hr
    exact ⟨t, hanswers⟩

theorem draws_eq_true_iff (i : Instr) : draws i = true ↔ i = .cls ∨ ∃ x y n, i = .drw x y n := by
  cases i <;> simp [draws]

/-- An instruction that raises draws nothing. -/
theorem draws_of_raisedFault {s : State} {i : Instr} {r : FaultReason} (h : raisedFault s i = some r) :
    draws i = false := by
  obtain ⟨rfl, -⟩ | ⟨nnn, rfl, -⟩ := (raisedFault_eq_some_iff s i r).mp h <;> rfl

/-- Settles O12: the strobe is that of a draw, and false at a fault, which no draw raises. -/
theorem fbUpdatedMarksDraws : Obligations.FbUpdatedMarksDraws := by
  intro i s t h
  rw [← draws_eq_true_iff]
  obtain ⟨r, hr, rfl⟩ | ⟨-, hstrobe, -⟩ := exec_cases h
  · rw [draws_of_raisedFault hr, State.takeFault_fbUpdated]
  · rw [hstrobe]

/-- Settles O13: the record of a raised fault names the reason, `pc` and the word; an instruction that raises nothing
keeps the fault state. -/
theorem onlyRetAndCallRaise : Obligations.OnlyRetAndCallRaise := by
  refine ⟨rfl, rfl, fun i s t h => ?_⟩
  obtain ⟨r, hr, rfl⟩ | ⟨-, -, -, -, -, -, -, -, -, -, -, hfault, -⟩ := exec_cases h
  · obtain ⟨rfl, hempty, rfl⟩ | ⟨nnn, rfl, hfull, rfl⟩ := (raisedFault_eq_some_iff s i r).mp hr
    · exact .inr (.inl ⟨rfl, hempty, rfl⟩)
    · exact .inr (.inr ⟨nnn, rfl, hfull, rfl⟩)
  · exact .inl hfault

/-! The writers of each component, read off the footprint. -/

theorem footprint_stack_iff (s : State) (i : Instr) :
    (footprint s i).stack = true ↔ i = .ret ∨ ∃ nnn, i = .call nnn := by
  cases i <;> simp [footprint]

theorem footprint_display_iff (s : State) (i : Instr) :
    (footprint s i).display = true ↔ i = .cls ∨ ∃ x y n, i = .drw x y n := draws_eq_true_iff i

theorem footprint_index_iff (s : State) (i : Instr) :
    (footprint s i).index = true ↔ (∃ nnn, i = .ldI nnn) ∨ (∃ x, i = .addI x) ∨ (∃ x, i = .ldF x) := by
  cases i <;> simp [footprint]

theorem footprint_delay_iff (s : State) (i : Instr) : (footprint s i).delay = true ↔ ∃ x, i = .ldDtX x := by
  cases i <;> simp [footprint]

theorem footprint_sound_iff (s : State) (i : Instr) : (footprint s i).sound = true ↔ ∃ x, i = .ldStX x := by
  cases i <;> simp [footprint]

theorem footprint_stored_ne_nil_iff (s : State) (i : Instr) :
    (footprint s i).stored ≠ [] ↔ (∃ x, i = .ldB x) ∨ (∃ x, i = .stRegs x) := by
  cases i <;> simp [footprint]

/-- Settles O18: a component that changed is in the footprint, and the footprint names its writers. -/
theorem eachComponentHasItsWriters : Obligations.EachComponentHasItsWriters := by
  intro i s t h
  obtain ⟨r, -, rfl⟩ | ⟨-, -, hregs, hmem, hindex, hdelay, hsound, hstack, hdisplay, -⟩ := exec_cases h
  · simp
  refine ⟨fun r => Not.imp_symm (hregs r), fun hne => (footprint_stack_iff s i).mp ?_,
    fun hne => (footprint_display_iff s i).mp ?_, fun hne => (footprint_index_iff s i).mp ?_,
    fun hne => (footprint_delay_iff s i).mp ?_, fun hne => (footprint_sound_iff s i).mp ?_,
    fun ⟨a, hne⟩ => (footprint_stored_ne_nil_iff s i).mp fun hnil => hne (hmem a (hnil ▸ List.not_mem_nil))⟩
  · exact eq_true_of_ne_false fun hf => hne (hstack hf)
  · exact eq_true_of_ne_false fun hf => hne (hdisplay hf)
  · exact eq_true_of_ne_false fun hf => hne (hindex hf)
  · exact eq_true_of_ne_false fun hf => hne (hdelay hf)
  · exact eq_true_of_ne_false fun hf => hne (hsound hf)

/-- Settles O19: these components stand outside every footprint, and a fault leaves them too. -/
theorem hostStateIsNotWrittenByInstructions : Obligations.HostStateIsNotWrittenByInstructions := by
  intro i s t h
  obtain ⟨r, -, rfl⟩ | ⟨-, -, -, -, -, -, -, -, -, hkey, hrunning, -, hcfg, henv, hiter, hrand, hloaded⟩ := exec_cases h
  · simp
  · exact ⟨hkey, hrunning, hcfg, henv, hiter, hrand, hloaded⟩

end Sys2Proof.Machine
end

section
/-! Jumps, call and return, and the faults of the last two (42_flow.md R140 to R145, 60_exceptions.md R222). -/

namespace Sys2Proof.Machine

/-- What a jump does after writes `u` within a footprint: it answers with `pc` at its target. -/
theorem State.retire_jump_spec {f : Footprint} {s u : State} (target : Word) (hkeeps : f.Keeps s u) :
    ∃ t, u.retire (.jump target) false = .next t ∧ t.pc = target ∧ t.stack = u.stack ∧ t.fbUpdated = false ∧
      f.Keeps s t :=
  ⟨u.finish (.jump target) false, rfl, rfl, rfl, rfl, (Footprint.keeps_finish_iff ..).mpr hkeeps⟩

theorem toNat_zext16 {n : Nat} (b : BitVec n) (hn : n ≤ 16) : (zext16 b).toNat = b.toNat :=
  BitVec.toNat_setWidth_of_le hn

/-- Settles O29: a pop, then a jump to what was popped. -/
theorem retResumesAtPoppedAddress : Obligations.RetResumesAtPoppedAddress := by
  intro s a rest hstack
  rw [exec_ret, execRet_eq, hstack]
  exact State.retire_jump_spec a ((Footprint.keeps_setStack_iff _ rfl ..).mpr (.refl ..))

/-- Settles O30: a push of `pc + 2`, then a jump to `nnn`. -/
theorem callPushesNextAddress : Obligations.CallPushesNextAddress := by
  intro nnn s hroom
  rw [exec_call, execCall_eq, if_neg hroom]
  have hkeeps : Footprint.Keeps { stack := true } s (s.setStack ((s.pc + 2) :: s.stack)) :=
    (Footprint.keeps_setStack_iff _ rfl ..).mpr (.refl ..)
  obtain ⟨t, hanswers, hpc, hstack, hrest⟩ := State.retire_jump_spec (zext16 nnn) hkeeps
  exact ⟨t, s.pc + 2, hanswers, hstack, toNat_pc_add_two s.pc, by rw [hpc, toNat_zext16 nnn (by decide)], hrest⟩

/-- The target of `Bnnn` stays below 65536, so the sum of the two widened operands is exact (D11). -/
theorem toNat_zext16_add_zext16 (nnn : Addr12) (b : Byte) : (zext16 nnn + zext16 b).toNat = nnn.toNat + b.toNat := by
  rw [BitVec.toNat_add, toNat_zext16 nnn (by decide), toNat_zext16 b (by decide)]
  omega

/-- Settles O32: both only jump, the second to a sum that the 16 bits of `pc` hold exactly. -/
theorem jumpsTakeTheirTargetAsGiven : Obligations.JumpsTakeTheirTargetAsGiven := by
  intro nnn s
  have hjump : ∀ target : Word, ∃ t, s.retire (.jump target) false = .next t ∧ t.pc.toNat = target.toNat ∧
      t.fbUpdated = false ∧ Footprint.Keeps {} s t := fun target =>
    let ⟨t, hanswers, hpc, _, hrest⟩ := State.retire_jump_spec target (Footprint.Keeps.refl {} s)
    ⟨t, hanswers, congrArg _ hpc, hrest⟩
  rw [exec_jp, exec_jpV0, ← toNat_zext16_add_zext16, ← toNat_zext16 nnn (by decide)]
  exact ⟨hjump _, hjump _⟩

/-- After a fault neither a tick nor a step follows (60_exceptions.md R222). -/
theorem ends_of_fault {t : State} {f : FaultRecord} (hfault : t.fault = some f) :
    (∀ tick, t.endIteration tick = t) ∧ ∀ u, step t ≠ .next u := by
  refine ⟨fun tick => ?_, fun u hstep => ?_⟩
  · rw [State.endIteration, hfault]
  · obtain ⟨hnone, -⟩ := step_cases hstep
    rw [hnone] at hfault
    cases hfault

/-- Settles O14: it raises its fault, after which neither a tick nor a step follows. -/
theorem retOnEmptyStackFaults : Obligations.RetOnEmptyStackFaults := fun _ hempty =>
  ⟨_, exec_of_raisedFault ((raisedFault_eq_some_iff ..).mpr (.inl ⟨rfl, hempty, rfl⟩)), rfl, ends_of_fault rfl⟩

/-- Settles O15: it raises its fault, after which neither a tick nor a step follows. -/
theorem callOnFullStackFaults : Obligations.CallOnFullStackFaults := fun nnn _ hfull =>
  ⟨_, exec_of_raisedFault ((raisedFault_eq_some_iff ..).mpr (.inr ⟨nnn, rfl, hfull, rfl⟩)), rfl, ends_of_fault rfl⟩

end Sys2Proof.Machine
end

section
/-! The arithmetic with a flag, the random byte, the index register and the timer moves (43_alu.md, 44_index_memory.md,
45_timer_keypad.md). -/

namespace Sys2Proof.Machine

/-- What the shared end of the flag producers does: the result in V[x], and the flag in `VF` unless x is 15. -/
theorem State.writeFlagReg_spec (s : State) (flag : Byte) (x : Reg) (b : Byte) :
    ∃ t, s.writeFlagReg flag x b = .next t ∧ t.reg x = b ∧ (x ≠ VF → t.reg VF = flag) ∧ t.pc = s.pc + 2 ∧
      t.fbUpdated = false ∧ Footprint.Keeps { regs := [x, VF] } s t := by
  refine ⟨(s.setFlagThenReg flag x b).finish .next false, ?answers, ?result, fun hx => ?flag, ?pc,
    State.finish_fbUpdated .., ?frame⟩
  case answers => rw [State.writeFlagReg, State.retire_eq_next]
  case result => rw [State.reg_finish, State.reg_setFlagThenReg, if_pos rfl]
  case flag => rw [State.reg_finish, State.reg_setFlagThenReg, if_neg hx.symm, if_pos rfl]
  case pc => rw [State.finish_pc, State.setFlagThenReg_pc, nextPc_next]
  case frame =>
    rw [Footprint.keeps_finish_iff, Footprint.keeps_setFlagThenReg_iff _ (by simp) (by simp)]
    exact Footprint.Keeps.refl ..

/-- What the shared end of the index writes does. -/
theorem State.writeIndex_spec (s : State) (a : Word) :
    ∃ t, s.writeIndex a = .next t ∧ t.i = a ∧ t.pc = s.pc + 2 ∧ t.fbUpdated = false ∧
      Footprint.Keeps { index := true } s t :=
  ⟨(s.setIndex a).finish .next false, rfl, rfl, rfl, rfl, (Footprint.keeps_finish_iff ..).mpr
    ((Footprint.keeps_setIndex_iff _ rfl ..).mpr (.refl ..))⟩

theorem flagByte_decide (p : Prop) [Decidable p] : flagByte (decide p) = if p then 1 else 0 := by
  by_cases hp : p <;> simp [flagByte, hp]

/-- Settles O38: the byte sum is the sum modulo 256, and the carry is decided on the exact sum. -/
theorem addWithCarry : Obligations.AddWithCarry := by
  intro x y s
  rw [exec_addReg]
  obtain ⟨t, hanswers, hresult, hflag, hrest⟩ :=
    s.writeFlagReg_spec (carryFlag (s.reg x) (s.reg y)) x (s.reg x + s.reg y)
  refine ⟨t, hanswers, ?_, fun hx => ?_, hrest⟩
  · rw [hresult, BitVec.toNat_add]
  · rw [hflag hx, carryFlag, flagByte_decide]

/-- A subtraction with its strict flag: `8xy5`, and `8xy7` with the operands exchanged. -/
theorem State.writeFlagReg_sub_spec (s : State) (x : Reg) (a b : Byte) :
    ∃ t, s.writeFlagReg (greaterFlag a b) x (a - b) = .next t ∧ (t.reg x).toNat = (a.toNat + 256 - b.toNat) % 256 ∧
      (x ≠ VF → t.reg VF = if a.toNat > b.toNat then 1 else 0) ∧ t.pc = s.pc + 2 ∧ t.fbUpdated = false ∧
      Footprint.Keeps { regs := [x, VF] } s t := by
  obtain ⟨t, hanswers, hresult, hflag, hrest⟩ := s.writeFlagReg_spec (greaterFlag a b) x (a - b)
  refine ⟨t, hanswers, ?_, fun hx => ?_, hrest⟩
  · rw [hresult, BitVec.toNat_sub]
    omega
  · rw [hflag hx, greaterFlag, flagByte_decide]

/-- Settles O39: both are subtractions with the strict flag, with the operands in either order. -/
theorem subtractWithStrictFlag : Obligations.SubtractWithStrictFlag := by
  intro x y s
  rw [exec_subReg, exec_subn]
  exact ⟨s.writeFlagReg_sub_spec x (s.reg x) (s.reg y), s.writeFlagReg_sub_spec x (s.reg y) (s.reg x)⟩

theorem toNat_flagByte (b : Bool) : (flagByte b).toNat = b.toNat := by
  cases b <;> rfl

theorem toNat_shiftRightFlag (a : Byte) : (shiftRightFlag a).toNat = a.toNat % 2 := by
  rw [shiftRightFlag, toNat_flagByte, BitVec.getLsbD, Nat.toNat_testBit, Nat.pow_zero, Nat.div_one]

theorem toNat_shiftLeftFlag (a : Byte) : (shiftLeftFlag a).toNat = a.toNat / 128 := by
  rw [shiftLeftFlag, toNat_flagByte, BitVec.getLsbD, Nat.toNat_testBit]
  omega

/-- Settles O40: a place to the right halves, a place to the left doubles, and the flag is the bit shifted out. -/
theorem shiftsByOne : Obligations.ShiftsByOne := by
  intro x y s
  rw [exec_shr, exec_shl]
  refine ⟨?right, ?left⟩
  case right =>
    obtain ⟨t, hanswers, hresult, hflag, hrest⟩ := s.writeFlagReg_spec (shiftRightFlag (s.reg x)) x (s.reg x >>> 1)
    refine ⟨t, hanswers, ?_, fun hx => ?_, hrest⟩
    · rw [hresult, BitVec.toNat_ushiftRight, Nat.shiftRight_one]
    · rw [hflag hx, toNat_shiftRightFlag]
  case left =>
    obtain ⟨t, hanswers, hresult, hflag, hrest⟩ := s.writeFlagReg_spec (shiftLeftFlag (s.reg x)) x (s.reg x <<< 1)
    refine ⟨t, hanswers, ?_, fun hx => ?_, hrest⟩
    · rw [hresult, BitVec.toNat_shiftLeft, Nat.shiftLeft_eq]
      omega
    · rw [hflag hx, toNat_shiftLeftFlag]

/-- Settles O41: a register write of the drawn byte under the mask, read bit by bit. -/
theorem randomAndMask : Obligations.RandomAndMask := by
  intro x kk r s hrand
  rw [exec_rnd]
  obtain ⟨t, hanswers, hresult, hrest⟩ := s.writeReg_spec x (s.rand &&& kk)
  exact ⟨t, hanswers, fun k _ => by rw [hresult, BitVec.getLsbD_and, hrand], hrest⟩

/-- Settles O42: three index writes; only the sum of `Fx1E` can pass 65535. -/
theorem indexRegisterWrites : Obligations.IndexRegisterWrites := by
  intro nnn x s
  rw [exec_ldI, exec_addI, exec_ldF]
  have hx := (s.reg x).isLt
  have hwrite : ∀ (a : Word) (n : Nat), a.toNat = n → ∃ t, s.writeIndex a = .next t ∧ t.i.toNat = n ∧
      t.pc = s.pc + 2 ∧ t.fbUpdated = false ∧ Footprint.Keeps { index := true } s t := fun a n ha =>
    let ⟨t, hanswers, hi, hrest⟩ := s.writeIndex_spec a
    ⟨t, hanswers, hi ▸ ha, hrest⟩
  refine ⟨hwrite _ _ (toNat_zext16 nnn (by decide)), hwrite _ _ ?_, hwrite _ _ ?_⟩
  · rw [BitVec.toNat_add, toNat_zext16 _ (by decide)]
  · rw [BitVec.toNat_mul, toNat_zext16 _ (by decide)]
    exact Nat.mod_eq_of_lt (show (s.reg x).toNat * 5 < 65536 by omega)

/-- Settles O51: a register write of DT, and writes of the two timers from V[x]. -/
theorem timerMoves : Obligations.TimerMoves := by
  intro x s
  rw [exec_ldXDt, exec_ldDtX, exec_ldStX]
  refine ⟨s.writeReg_spec x s.dt, ⟨(s.setDelay (s.reg x)).finish .next false, rfl, rfl, rfl, rfl, ?_⟩,
    ⟨(s.setSound (s.reg x)).finish .next false, rfl, rfl, bne_iff_ne, rfl, rfl, ?_⟩⟩
  · exact (Footprint.keeps_finish_iff ..).mpr ((Footprint.keeps_setDelay_iff _ rfl ..).mpr (.refl ..))
  · exact (Footprint.keeps_finish_iff ..).mpr ((Footprint.keeps_setSound_iff _ rfl ..).mpr (.refl ..))

/-- Settles O23: each of the seven only writes V[x], so any other register stands. -/
theorem plainFormsLeaveTheFlag : Obligations.PlainFormsLeaveTheFlag := by
  intro x y kk s i hi hx
  have hwrites : raisedFault s i = none ∧ regsWritten i = [x] := by
    fin_cases hi <;> exact ⟨rfl, rfl⟩
  obtain ⟨t, hanswers, -, hregs, -⟩ := exec_keeps hwrites.1
  refine ⟨t, hanswers, hregs VF ?_⟩
  rw [footprint_regs, hwrites.2, List.mem_singleton]
  exact hx.symm

/-- Settles O24: `Dxyn` writes its flag last, and the other five write it unless the result goes there. -/
theorem flagIsZeroOrOne : Obligations.FlagIsZeroOrOne := by
  intro x y n s i hi
  obtain rfl | ⟨hx, hi⟩ := hi
  · refine ⟨_, rfl, ?_⟩
    rw [State.reg_finish, State.reg_setReg_self]
    exact flagByte_zero_or_one _
  · have hwrite : ∀ (f : Bool) (b : Byte),
        ∃ t, s.writeFlagReg (flagByte f) x b = .next t ∧ (t.reg VF = 0 ∨ t.reg VF = 1) := fun f b =>
        let ⟨t, hanswers, _, hflag, _⟩ := s.writeFlagReg_spec (flagByte f) x b
        ⟨t, hanswers, hflag hx ▸ flagByte_zero_or_one f⟩
    fin_cases hi <;> exact hwrite _ _

end Sys2Proof.Machine
end

section
/-! The iteration around the instruction (40_dispatch.md R100, 60_exceptions.md R230 to R237). -/

namespace Sys2Proof.Machine

theorem State.enabled_iff (s : State) : s.enabled = true ↔ s.running = true ∧ s.fault = none := by
  simp [State.enabled]

theorem step_of_enabled {s : State} (h : s.enabled = true) : step s = s.beginIteration.afterPoll s.nextInput.tick := by
  obtain ⟨hrunning, hfault⟩ := s.enabled_iff.mp h
  rw [step, State.iteration, hfault, hrunning]

theorem State.afterPoll_of_not_running {s : State} (h : s.running = false) (tick : Bool) :
    s.afterPoll tick = .next s := by
  rw [State.afterPoll, h]

theorem State.afterPoll_of_running {s t : State} {tick : Bool} (h : s.running = true)
    (ht : exec (decode s.fetchWord) s = .next t) : s.afterPoll tick = .next (t.endIteration tick) := by
  rw [State.afterPoll, h]
  simp only [State.stepInstr, ht]

/-- `running` after the coming poll. -/
theorem State.beginIteration_running (s : State) :
    s.beginIteration.running = (s.running && !s.nextInput.poll.contains .quit) :=
  State.applyPoll_running _ _

theorem State.beginIteration_key (s : State) : s.beginIteration.key = (s.applyPoll s.nextInput.poll).key := by
  unfold State.beginIteration
  apply State.applyPoll_key_congr
  rfl

/-- Settles O6: the poll leaves the two bytes at `pc`, so the instruction fetched after it is the one decoded here. -/
theorem stepRunsDecodedInstruction : Obligations.StepRunsDecodedInstruction := by
  intro s i hi lo henabled hrunning hhi hlo hdecode
  have hfetch : decode s.beginIteration.fetchWord = i := by
    rw [State.fetchWord_beginIteration, State.fetchWord, hhi, hlo, hdecode]
  obtain ⟨t, ht⟩ := everyInstructionAnswersNext i s.beginIteration
  have hstep : step s = .next (t.endIteration s.nextInput.tick) := by
    rw [step_of_enabled henabled]
    exact State.afterPoll_of_running hrunning (hfetch.symm ▸ ht)
  rw [hstep, ht]

theorem State.endIteration_of_no_fault {s : State} (h : s.fault = none) (tick : Bool) :
    s.endIteration tick = s.decay tick := by
  rw [State.endIteration, h]

theorem State.endIteration_eq_or (s : State) (tick : Bool) :
    s.endIteration tick = s.decay tick ∨ s.endIteration tick = s := by
  unfold State.endIteration
  cases s.fault <;> simp

/-- The end of an iteration writes the timers and no other component. -/
theorem State.endIteration_frame (s : State) (tick : Bool) :
    s.endIteration tick = { s with dt := (s.endIteration tick).dt, st := (s.endIteration tick).st } := by
  obtain h | h := s.endIteration_eq_or tick <;> rw [h]
  rfl

/-- Settles O7: the parts before and after the instruction, each by its own equation. -/
theorem iterationPartsTouchOnlyTheirOwn : Obligations.IterationPartsTouchOnlyTheirOwn := by
  intro s
  refine ⟨fun e rest henv => ?head, fun henv => ?free, ⟨s.beginIteration.running, ?poll, ?running⟩, fun hfault => ?tick,
    fun hfault tick => ?faulted⟩
  case head => rw [State.nextInput, henv]
  case free => rw [State.nextInput, henv]
  case poll => rw [← State.beginIteration_key]; exact s.beginIteration_eq
  case running => simp [State.beginIteration_running]
  case tick =>
    rw [State.endIteration_of_no_fault hfault, State.endIteration_of_no_fault hfault]
    exact ⟨rfl, s.decay_false⟩
  case faulted =>
    obtain ⟨f, hf⟩ := Option.ne_none_iff_exists'.mp hfault
    exact (ends_of_fault hf).1 tick

/-- Settles O8: a step that answers was enabled; and an enabled one answers, as every instruction does. -/
theorem stepAnswersNextExactlyWhenEnabled : Obligations.StepAnswersNextExactlyWhenEnabled := by
  intro s
  constructor
  · rintro ⟨t, h⟩
    obtain ⟨hfault, hrunning, -⟩ := step_cases h
    exact ⟨hrunning, hfault⟩
  · intro h
    rw [step_of_enabled (s.enabled_iff.mpr h)]
    cases hrunning : s.beginIteration.running with
    | false => exact ⟨_, State.afterPoll_of_not_running hrunning _⟩
    | true =>
      obtain ⟨t, ht⟩ := everyInstructionAnswersNext (decode s.beginIteration.fetchWord) s.beginIteration
      exact ⟨_, State.afterPoll_of_running hrunning ht⟩

/-- Settles O9: the poll clears `running`, and with it ends the iteration and every later step. -/
theorem quitEndsTheLoopBeforeTheStep : Obligations.QuitEndsTheLoopBeforeTheStep := by
  intro s henabled hquit
  have hrunning : s.beginIteration.running = false := by
    simp [State.beginIteration_running, hquit]
  refine ⟨s.beginIteration, ?_, hrunning, ?_⟩
  · rw [step_of_enabled henabled, State.afterPoll_of_not_running hrunning]
  · have hended : ∀ u, step s.beginIteration ≠ .next u := fun u hu => by
      obtain ⟨-, hruns, -⟩ := step_cases hu
      rw [hrunning] at hruns
      cases hruns
    rw [s.beginIteration_eq] at hended ⊢
    exact ⟨rfl, rfl, rfl, rfl, rfl, rfl, rfl, rfl, rfl, rfl, rfl, hended⟩

/-- Settles O10: the word of two bytes as a number, and addresses modulo 4096. -/
theorem fetchIsBigEndianAndWraps : Obligations.FetchIsBigEndianAndWraps := by
  intro s
  have hword : s.fetchWord.toNat = (s.memRead s.pc.toNat).toNat * 256 + (s.memRead (s.pc.toNat + 1)).toNat :=
    toNat_wordOfBytes ..
  refine ⟨hword, fun hwrap => ?_⟩
  rw [hword, s.memRead_congr_mod (b := 0xFFF) (by omega), s.memRead_congr_mod (a := s.pc.toNat + 1) (b := 0) (by omega)]

/-- Settles O58: every iteration counts itself, and no instruction resets the count. -/
theorem noLoadAfterTheFirstStep : Obligations.NoLoadAfterTheFirstStep := by
  intro s t a bytes h
  have hbegin : s.beginIteration.iter ≠ 0 := by rw [s.beginIteration_eq]; exact Nat.succ_ne_zero _
  have hiter : t.iter ≠ 0 := by
    obtain ⟨-, -, ⟨-, rfl⟩ | ⟨-, u, hu, rfl⟩⟩ := step_cases h
    · exact hbegin
    · obtain ⟨-, -, -, -, hiter, -⟩ := hostStateIsNotWrittenByInstructions _ _ _ hu
      rw [u.endIteration_frame, hiter]
      exact hbegin
  rw [hostLoad, if_pos hiter]

/-! The invariant of the machine (10_state.md R34, 60_exceptions.md R222). -/

/-- The invariant speaks of the parameters, memory, the stack, `pc` and the fault state alone. -/
theorem State.Inv.congr {s t : State} (h : s.Inv) (hcfg : t.cfg = s.cfg) (hmem : t.mem = s.mem)
    (hstack : t.stack = s.stack) (hpc : t.pc = s.pc) (hfault : t.fault = s.fault) : t.Inv := by
  have hfetch := State.fetchWord_of_mem hcfg hmem hpc
  simpa only [State.Inv, State.stackFits, FaultRecord.precise, hcfg, hmem, hstack, hpc, hfault, hfetch] using h

/-- An instruction leaves memory as it was, or writes a run of bytes at `I`. -/
theorem exec_mem {i : Instr} {s t : State} (h : exec i s = .next t) :
    t.mem = s.mem ∨ ∃ bs, t.mem = (s.memWriteBytes s.i.toNat bs).mem := by
  cases i
  case ldB x => cases h; exact .inr ⟨_, rfl⟩
  case stRegs x => cases h; exact .inr ⟨_, rfl⟩
  case ldRegs x => cases h; exact .inl (State.setRegs_mem ..)
  case ret =>
    rw [exec_ret, execRet_eq] at h
    split at h <;> cases h <;> exact .inl rfl
  case call nnn =>
    rw [exec_call, execCall_eq] at h
    split at h <;> cases h <;> exact .inl rfl
  case ldXK x =>
    rw [exec_ldXK, execLdXK] at h
    split at h <;> cases h <;> exact .inl rfl
  all_goals cases h; exact .inl rfl

theorem exec_keeps_wf_mem {i : Instr} {s t : State} (h : exec i s = .next t)
    (hwf : Memory.wf s.cfg.font s.mem = true) : Memory.wf t.cfg.font t.mem = true := by
  obtain ⟨-, -, hcfg, -⟩ := hostStateIsNotWrittenByInstructions i s t h
  rw [hcfg]
  obtain hmem | ⟨bs, hmem⟩ := exec_mem h <;> rw [hmem]
  · exact hwf
  · exact State.wf_memWriteBytes s _ bs hwf

/-- What an instruction that raises nothing does to the stack, and where call and return go. -/
theorem exec_stack {i : Instr} {s t : State} (h : exec i s = .next t) (hraise : raisedFault s i = none) :
    (i ≠ .ret ∧ (∀ nnn, i ≠ .call nnn) ∧ t.stack = s.stack) ∨
    (∃ rest, i = .ret ∧ s.stack = t.pc :: rest ∧ t.stack = rest) ∨
    (∃ nnn, i = .call nnn ∧ s.cfg.stackDepth ≠ some s.stack.length ∧ t.stack = (s.pc + 2) :: s.stack) := by
  obtain hret | hret := eq_or_ne i .ret
  · subst hret
    cases hstack : s.stack with
    | nil => simp [raisedFault, hstack] at hraise
    | cons a rest =>
      rw [exec_ret, execRet_eq, hstack, State.retire_eq_next] at h
      subst h
      exact .inr (.inl ⟨rest, rfl, rfl, rfl⟩)
  obtain ⟨nnn, rfl⟩ | hcall := em (∃ nnn, i = .call nnn)
  · have hroom : s.cfg.stackDepth ≠ some s.stack.length := fun hfull => by simp [raisedFault, hfull] at hraise
    rw [exec_call, execCall_eq, if_neg hroom, State.retire_eq_next] at h
    subst h
    exact .inr (.inr ⟨nnn, rfl, hroom, rfl⟩)
  · refine .inl ⟨hret, not_exists.mp hcall, ?_⟩
    obtain ⟨-, hstack, -⟩ := eachComponentHasItsWriters i s t h
    exact of_not_not fun hne => (hstack hne).elim hret hcall

theorem State.stackFits_iff (s : State) : s.stackFits = true ↔ ∀ n, s.cfg.stackDepth = some n → s.stack.length ≤ n := by
  unfold State.stackFits
  cases s.cfg.stackDepth <;> simp

theorem exec_keeps_stackFits {i : Instr} {s t : State} (h : exec i s = .next t) (hfits : s.stackFits = true) :
    t.stackFits = true := by
  rw [State.stackFits_iff] at hfits ⊢
  obtain ⟨-, -, hcfg, -⟩ := hostStateIsNotWrittenByInstructions i s t h
  rw [hcfg]
  intro n hn
  have hle := hfits n hn
  obtain ⟨r, -, rfl⟩ | ⟨hraise, -⟩ := exec_cases h
  · exact hle
  obtain ⟨-, -, hstack⟩ | ⟨rest, -, hstack, hrest⟩ | ⟨nnn, -, hroom, hstack⟩ := exec_stack h hraise
  · rw [hstack]; exact hle
  · rw [hrest]
    rw [hstack, List.length_cons] at hle
    omega
  · have hne : n ≠ s.stack.length := fun heq => hroom (heq ▸ hn)
    rw [hstack, List.length_cons]
    omega

/-- The record of a fault raised by the fetched instruction is precise: its word is the one still there. -/
theorem precise_of_raisedFault {s : State} {r : FaultReason} (h : raisedFault s (decode s.fetchWord) = some r) :
    FaultRecord.precise ⟨r, s.pc, encode (decode s.fetchWord)⟩ (s.takeFault r (encode (decode s.fetchWord))) =
      true := by
  have hfetch : ∀ w, (s.takeFault r w).fetchWord = s.fetchWord := fun _ => State.fetchWord_of_mem rfl rfl rfl
  have hword : encode (decode s.fetchWord) = s.fetchWord := encode_decode _
  rw [hword]
  obtain ⟨hi, hempty, rfl⟩ | ⟨nnn, hi, hfull, rfl⟩ := (raisedFault_eq_some_iff ..).mp h
  · have hret : s.fetchWord = 0x00EE := by rw [← hword, hi]; rfl
    simp [FaultRecord.precise, hfetch, hret, hempty]
  · have hop : opField s.fetchWord = 2 := by rw [← hword, hi]; exact opField_encodeNNN ..
    simp [FaultRecord.precise, hfetch, hop, hfull]

/-- The fetched instruction, run in a state without a fault, keeps the invariant. -/
theorem exec_fetched_keeps_inv {s t : State} (hinv : s.Inv) (hfault : s.fault = none)
    (h : exec (decode s.fetchWord) s = .next t) : t.Inv := by
  obtain ⟨hwf, hcfg, hfits, -⟩ := hinv
  obtain ⟨-, -, hcfg', -⟩ := hostStateIsNotWrittenByInstructions _ s t h
  refine ⟨exec_keeps_wf_mem h hwf, hcfg' ▸ hcfg, exec_keeps_stackFits h hfits, ?_⟩
  obtain ⟨r, hr, rfl⟩ | ⟨-, -, -, -, -, -, -, -, -, -, -, hkeeps, -⟩ := exec_cases h
  · exact precise_of_raisedFault hr
  · rw [hkeeps, hfault]; rfl

/-- Settles O16: the poll touches nothing the invariant speaks of, the fetched instruction keeps it, and the end of the
iteration writes the timers alone. -/
theorem stepKeepsInvariant : Obligations.StepKeepsInvariant := by
  intro s t hinv h
  obtain ⟨hfault, -, hcases⟩ := step_cases h
  have hbegin : s.beginIteration.Inv ∧ s.beginIteration.fault = none := by
    rw [s.beginIteration_eq]
    exact ⟨hinv.congr rfl rfl rfl rfl rfl, hfault⟩
  obtain ⟨-, rfl⟩ | ⟨-, u, hu, rfl⟩ := hcases
  · exact hbegin.1
  · rw [u.endIteration_frame]
    exact (exec_fetched_keeps_inv hbegin.1 hbegin.2 hu).congr rfl rfl rfl rfl rfl

/-- Settles O17: created memory lists nothing, the stack is empty, and no fault is recorded. -/
theorem creationMeetsInvariant : Obligations.CreationMeetsInvariant := by
  have hcreate : ∀ cfg : Config, cfg.wf = true → (State.create cfg).Inv := fun cfg hcfg =>
    ⟨Memory.wf_create cfg, hcfg, (State.stackFits_iff _).mpr fun n _ => Nat.zero_le n, rfl⟩
  exact ⟨hcreate, hcreate Config.default rfl⟩

end Sys2Proof.Machine
end

section
/-! The keypad and the timers over a step (45_timer_keypad.md R200 to R206, 60_exceptions.md R229 to R235). -/

namespace Sys2Proof.Machine

/-! Reads of the latch. -/

theorem State.keyAt_eq_true_iff (s : State) (k : Nat) : s.keyAt k = true ↔ s.key[k]? = some true := by
  rw [State.keyAt]
  cases s.key[k]? <;> simp

/-- A key number that reads as pressed is below 16 (R206). -/
theorem State.lt_of_keyAt {s : State} {k : Nat} (h : s.keyAt k = true) : k < 16 := by
  by_contra hge
  rw [State.keyAt, Vector.getElem?_eq_none (Nat.le_of_not_lt hge)] at h
  cases h

theorem State.pressed_iff (s : State) (b : Byte) : s.pressed b = true ↔ s.key[b.toNat]? = some true := by
  rw [State.pressed, Bool.and_eq_true, decide_eq_true_iff, ← State.keyAt_eq_true_iff]
  exact and_iff_right_of_imp State.lt_of_keyAt

theorem State.lowestKey_eq_none {s : State} (h : ∀ k : Nat, s.key[k]? ≠ some true) : s.lowestKey = none := by
  rw [State.lowestKey, List.find?_eq_none]
  exact fun k _ hk => h k ((s.keyAt_eq_true_iff k).mp hk)

theorem State.lowestKey_eq_some {s : State} {k : Nat} (hk : s.key[k]? = some true)
    (hbelow : ∀ j : Nat, j < k → s.key[j]? ≠ some true) : s.lowestKey = some k := by
  rw [← State.keyAt_eq_true_iff] at hk
  rw [State.lowestKey, List.find?_range_eq_some]
  refine ⟨hk, List.mem_range.mpr (State.lt_of_keyAt hk), fun j hj => ?_⟩
  rw [Bool.not_eq_true', ← Bool.not_eq_true, State.keyAt_eq_true_iff]
  exact hbelow j hj

/-! The keypad instructions. -/

/-- Settles O48: both are skips, whose tests decide that key V[x] is pressed and that it is not. -/
theorem keypadSkips : Obligations.KeypadSkips := by
  intro x s
  rw [exec_skp, exec_sknp]
  have hnot : (!s.pressed (s.reg x)) = true ↔ s.key[(s.reg x).toNat]? ≠ some true := by
    rw [ne_eq, ← s.pressed_iff, Bool.not_eq_true', Bool.not_eq_true]
  refine ⟨?skp, ?sknp⟩
  case skp =>
    obtain ⟨t, hanswers, hstrobe, hkeeps, hpc⟩ := s.skipIf_spec (s.pressed_iff (s.reg x))
    exact ⟨t, hanswers, hstrobe, hkeeps, fun h => by rw [hpc, if_pos h], fun h => by rw [hpc, if_neg h]⟩
  case sknp =>
    obtain ⟨t, hanswers, hstrobe, hkeeps, hpc⟩ := s.skipIf_spec hnot
    exact ⟨t, hanswers, hstrobe, hkeeps, fun h => by rw [hpc, if_pos h], fun h => by rw [hpc, if_neg (not_not.mpr h)]⟩

/-- The wait: with no key pressed `Fx0A` holds. -/
theorem exec_ldXK_of_no_key {s : State} (x : Reg) (h : ∀ k : Nat, s.key[k]? ≠ some true) :
    exec (.ldXK x) s = .next { s with fbUpdated := false } := by
  rw [exec_ldXK, execLdXK, State.lowestKey_eq_none h]
  rfl

/-- Settles O49: the search for the lowest pressed key finds k, or none. -/
theorem keyWaitTakesLowestKeyOrHolds : Obligations.KeyWaitTakesLowestKeyOrHolds := by
  intro x s
  refine ⟨fun k hk hbelow => ?_, exec_ldXK_of_no_key x⟩
  have hlt : k < 16 := State.lt_of_keyAt ((s.keyAt_eq_true_iff k).mpr hk)
  rw [exec_ldXK, execLdXK, State.lowestKey_eq_some hk hbelow]
  obtain ⟨t, hanswers, hresult, hrest⟩ := s.writeReg_spec x (BitVec.ofNat 8 k)
  exact ⟨t, hanswers, by rw [hresult, BitVec.toNat_ofNat]; omega, hrest⟩

/-! The timers over a step. -/

theorem toNat_decayTimer (tick : Bool) (b : Byte) :
    (decayTimer tick b).toNat = b.toNat - if tick then 1 else 0 := by
  cases tick
  · rw [decayTimer_false, if_neg Bool.false_ne_true, Nat.sub_zero]
  · rw [toNat_decayTimer_true, if_pos rfl]

/-- An empty poll leaves the latch and `running` as they are. -/
theorem State.beginIteration_of_empty_poll {s : State} (h : s.nextInput.poll = []) :
    s.beginIteration = { s with env := s.env.tail, iter := s.iter + 1, rand := s.nextInput.rand } := by
  rw [State.beginIteration, h]
  rfl

/-- Settles O50: after an empty poll the wait changes the strobe alone, and the end of the iteration ticks. -/
theorem keyWaitHoldsWhileTimersRun : Obligations.KeyWaitHoldsWhileTimersRun := by
  intro x s henabled hpoll hdecode hnokey
  obtain ⟨hrunning, hfault⟩ := s.enabled_iff.mp henabled
  have hbegin := State.beginIteration_of_empty_poll hpoll
  have hexec : exec (decode s.beginIteration.fetchWord) s.beginIteration =
      .next { s.beginIteration with fbUpdated := false } := by
    rw [State.fetchWord_beginIteration, hdecode]
    exact exec_ldXK_of_no_key x (by rw [hbegin]; exact hnokey)
  have hstep : step s = .next (State.decay { s.beginIteration with fbUpdated := false } s.nextInput.tick) := by
    rw [step_of_enabled henabled, State.afterPoll_of_running (by rw [hbegin]; exact hrunning) hexec,
      State.endIteration_of_no_fault (by rw [hbegin]; exact hfault)]
  rw [hbegin] at hstep
  exact ⟨_, hstep, rfl, State.fetchWord_of_mem rfl rfl rfl, fun _ => rfl, fun _ => rfl, rfl, rfl, rfl, rfl, rfl, rfl,
    rfl, rfl, toNat_decayTimer .., toNat_decayTimer ..⟩

/-- Over the end of an iteration no timer rises, and each falls by at most one. -/
theorem State.endIteration_timers (s : State) (tick : Bool) :
    ((s.endIteration tick).dt.toNat ≤ s.dt.toNat ∧ s.dt.toNat ≤ (s.endIteration tick).dt.toNat + 1) ∧
    ((s.endIteration tick).st.toNat ≤ s.st.toNat ∧ s.st.toNat ≤ (s.endIteration tick).st.toNat + 1) := by
  obtain h | h := s.endIteration_eq_or tick <;> rw [h]
  · rw [State.decay_dt, State.decay_st, toNat_decayTimer, toNat_decayTimer]
    cases tick <;> simp; omega
  · omega

/-- Settles O53: the poll leaves the timers, an instruction that does not write one leaves it, and the end of the
iteration takes at most one from each. -/
theorem timersFallByAtMostOnePerStep : Obligations.TimersFallByAtMostOnePerStep := by
  intro s t h
  have hbegin : s.beginIteration.dt = s.dt ∧ s.beginIteration.st = s.st := by
    rw [s.beginIteration_eq]
    exact ⟨rfl, rfl⟩
  rw [← hbegin.1, ← hbegin.2, ← s.fetchWord_beginIteration]
  obtain ⟨-, -, ⟨-, rfl⟩ | ⟨-, u, hu, rfl⟩⟩ := step_cases h
  · omega
  obtain ⟨-, -, -, -, hdelay, hsound, -⟩ := eachComponentHasItsWriters _ _ _ hu
  obtain ⟨hdt, hst⟩ := u.endIteration_timers s.nextInput.tick
  refine ⟨fun hno => ?_, fun hno => ?_⟩
  · have hkept : u.dt = s.beginIteration.dt := of_not_not fun hne => not_exists.mpr hno (hdelay hne)
    rw [← hkept]
    exact hdt
  · have hkept : u.st = s.beginIteration.st := of_not_not fun hne => not_exists.mpr hno (hsound hne)
    rw [← hkept]
    exact hst

/-! Key events and creation. -/

theorem State.keyAt_keySet (s : State) (k : Fin 16) (b : Bool) (j : Nat) :
    (s.keySet k b).keyAt j = if j = k.val then b else s.keyAt j := by
  rw [State.keyAt, State.keyAt, State.keySet_key, Vector.getElem?_set]
  by_cases hkj : j = k.val
  · simp [hkj]
  · simp [hkj, Ne.symm hkj]

theorem keyAt_replicate_false {s : State} (h : s.key = Vector.replicate 16 false) (j : Nat) : s.keyAt j = false := by
  rw [State.keyAt, h, Vector.getElem?_replicate]
  split_ifs <;> rfl

/-- Settles O54: each event writes the latch alone, and the last event of a poll acts on what the others left. -/
theorem keyEventsSetTheLatch : Obligations.KeyEventsSetTheLatch := by
  intro s k b
  refine ⟨fun j _ => s.keyAt_keySet k b j, rfl, keyAt_replicate_false rfl, rfl, rfl,
    fun es => ⟨fun j _ => ?_, fun j => ?_, ?_⟩⟩ <;> rw [State.applyPoll_concat]
  · exact (s.applyPoll es).keyAt_keySet k b j
  · exact keyAt_replicate_false rfl j
  · rfl

theorem State.memRead_create (cfg : Config) {a : Nat} (ha : a < 4096) :
    (State.create cfg).memRead a = Memory.unlisted cfg.font a := by
  rw [State.memRead, Nat.mod_eq_of_lt ha]
  rfl

/-- Settles O55: every component as created; memory lists nothing, so it reads as its creation contents. -/
theorem creationValues : Obligations.CreationValues := by
  intro cfg
  refine ⟨fun x => Vector.getElem_replicate _, rfl, rfl, rfl, rfl, rfl, keyAt_replicate_false rfl,
    fun c r => ?pixels, rfl, rfl, rfl, fun a ha => ?font, fun a ha hlt => ?zero⟩
  case pixels =>
    rw [pixel]
    exact congrArg (BitVec.getLsbD · _) (fbByte_replicate_zero _) |>.trans BitVec.getLsbD_zero
  case font => rw [State.memRead_create cfg (by omega), Memory.unlisted, dif_pos ha]
  case zero => rw [State.memRead_create cfg hlt, Memory.unlisted, dif_neg (by omega)]

end Sys2Proof.Machine
end

section
/-! The values an instruction does not read: the random byte and ST (40_dispatch.md R112, 10_state.md R28). -/

namespace Sys2Proof.Machine

/-- The state with other values in ST and in the random byte. -/
def State.withSoundRand (s : State) (b r : Byte) : State := { s with st := b, rand := r }

theorem State.memWriteBytes_withSoundRand (s : State) (b r : Byte) (a : Nat) (bs : List Byte) :
    (s.withSoundRand b r).memWriteBytes a bs = (s.memWriteBytes a bs).withSoundRand b r := by
  induction bs generalizing s a with
  | nil => rfl
  | cons c bs ih => exact ih (s.memWrite a c) (a + 1)

theorem State.setRegs_withSoundRand (s : State) (b r : Byte) (j : Nat) (bs : List Byte) :
    (s.withSoundRand b r).setRegs j bs = (s.setRegs j bs).withSoundRand b r := by
  induction bs generalizing s j with
  | nil => rfl
  | cons c bs ih => exact ih (s.setReg (BitVec.ofNat 4 j) c) (j + 1)

/-- Every instruction but `Cxkk` and `Fx18` carries other values in ST and the random byte through unchanged. -/
theorem exec_withSoundRand {i : Instr} {s t : State} (b r : Byte) (hrnd : ∀ x kk, i ≠ .rnd x kk)
    (hsound : ∀ x, i ≠ .ldStX x) (h : exec i s = .next t) :
    exec i (s.withSoundRand b r) = .next (t.withSoundRand b r) := by
  cases i
  case rnd x kk => exact absurd rfl (hrnd x kk)
  case ldStX x => exact absurd rfl (hsound x)
  case ldB x =>
    cases h
    rw [exec_ldB]
    exact congrArg (State.retire · .next false) (State.memWriteBytes_withSoundRand ..)
  case stRegs x =>
    cases h
    rw [exec_stRegs]
    exact congrArg (State.retire · .next false) (State.memWriteBytes_withSoundRand ..)
  case ldRegs x =>
    cases h
    rw [exec_ldRegs]
    exact congrArg (State.retire · .next false) (State.setRegs_withSoundRand ..)
  case ret =>
    rw [exec_ret, execRet_eq] at h ⊢
    rw [show (s.withSoundRand b r).stack = s.stack from rfl]
    cases hstack : s.stack with
    | nil => rw [hstack] at h; cases h; rfl
    | cons a rest => rw [hstack] at h; cases h; rfl
  case call nnn =>
    rw [exec_call, execCall_eq] at h ⊢
    by_cases hfull : s.cfg.stackDepth = some s.stack.length
    · rw [if_pos hfull] at h
      cases h
      exact if_pos hfull
    · rw [if_neg hfull] at h
      cases h
      exact if_neg hfull
  case ldXK x =>
    rw [exec_ldXK, execLdXK] at h ⊢
    rw [show (s.withSoundRand b r).lowestKey = s.lowestKey from rfl]
    cases hkey : s.lowestKey with
    | none => rw [hkey] at h; cases h; rfl
    | some k => rw [hkey] at h; cases h; rfl
  all_goals
    cases h
    rfl

/-- Settles O20: `Fx18` does not read the byte, and any other instruction carries it through, with ST as it was. -/
theorem onlyRndReadsTheRandomByte : Obligations.OnlyRndReadsTheRandomByte := by
  intro i s t r hrnd h
  by_cases hsound : ∃ x, i = .ldStX x
  · obtain ⟨x, rfl⟩ := hsound
    cases h
    rfl
  · obtain ⟨-, -, -, -, -, hst, -⟩ := eachComponentHasItsWriters i s t h
    have hkept : t.st = s.st := of_not_not fun hne => hsound (hst hne)
    have hexec := exec_withSoundRand s.st r hrnd (not_exists.mp hsound) h
    have hafter : t.withSoundRand s.st r = { t with rand := r } := by rw [← hkept]; rfl
    exact hexec.trans (congrArg _ hafter)

/-- Settles O21: `Cxkk` does not read ST, and any other instruction carries it through, with the random byte as it
was. -/
theorem noInstructionReadsSoundTimer : Obligations.NoInstructionReadsSoundTimer := by
  intro i s t b hsound h
  by_cases hrnd : ∃ x kk, i = .rnd x kk
  · obtain ⟨x, kk, rfl⟩ := hrnd
    cases h
    rfl
  · obtain ⟨-, -, -, -, -, hkept, -⟩ := hostStateIsNotWrittenByInstructions i s t h
    have hexec := exec_withSoundRand b s.rand (fun x kk heq => hrnd ⟨x, kk, heq⟩) hsound h
    have hafter : t.withSoundRand b s.rand = { t with st := b } := by rw [← hkept]; rfl
    exact hexec.trans (congrArg _ hafter)

end Sys2Proof.Machine
end

section
/-! Where `pc` goes, and the nesting of calls and returns (20_memory.md R56, 42_flow.md R145). -/

namespace Sys2Proof.Machine

/-- Every way an instruction can leave `pc`. -/
theorem exec_pc {i : Instr} {s t : State} (h : exec i s = .next t) :
    (t.pc = s.pc ∨ t.pc = s.pc + 2 ∨ t.pc = s.pc + 4 ∨ t.pc ∈ s.stack) ∨
    (∃ nnn, (i = .jp nnn ∨ i = .call nnn) ∧ t.pc = zext16 nnn) ∨
    (∃ nnn, i = .jpV0 nnn ∧ t.pc = zext16 nnn + zext16 (s.reg V0)) := by
  have hskip : ∀ c : Bool, s.skipIf c = .next t →
      t.pc = s.pc ∨ t.pc = s.pc + 2 ∨ t.pc = s.pc + 4 ∨ t.pc ∈ s.stack := by
    intro c hc
    cases c <;> cases hc
    · exact .inr (.inl rfl)
    · exact .inr (.inr (.inl rfl))
  cases i
  case jp nnn => cases h; exact .inr (.inl ⟨nnn, .inl rfl, rfl⟩)
  case jpV0 nnn => cases h; exact .inr (.inr ⟨nnn, rfl, rfl⟩)
  case call nnn =>
    rw [exec_call, execCall_eq] at h
    split at h <;> cases h
    · exact .inl (.inl rfl)
    · exact .inr (.inl ⟨nnn, .inr rfl, rfl⟩)
  case ret =>
    rw [exec_ret, execRet_eq] at h
    split at h
    case h_1 => cases h; exact .inl (.inl rfl)
    case h_2 a rest hstack =>
      cases h
      refine .inl (.inr (.inr (.inr ?_)))
      rw [hstack]
      exact List.mem_cons_self
  case ldXK x =>
    rw [exec_ldXK, execLdXK] at h
    split at h <;> cases h
    · exact .inl (.inl rfl)
    · exact .inl (.inr (.inl rfl))
  case seImm | sneImm | seReg | sneReg | skp | sknp => exact .inl (hskip _ h)
  case ldB | stRegs =>
    cases h
    exact .inl (.inr (.inl (congrArg (· + 2) (State.memWriteBytes_pc ..))))
  case ldRegs =>
    cases h
    exact .inl (.inr (.inl (congrArg (· + 2) (State.setRegs_pc ..))))
  all_goals
    cases h
    exact .inl (.inr (.inl rfl))

/-- Return addresses stay even: a call pushes `pc + 2`, and nothing else adds one. -/
theorem exec_keeps_even_stack {i : Instr} {s t : State} (h : exec i s = .next t) (hpc : s.pc.toNat % 2 = 0)
    (hstack : ∀ a ∈ s.stack, a.toNat % 2 = 0) : ∀ a ∈ t.stack, a.toNat % 2 = 0 := by
  obtain ⟨r, -, rfl⟩ | ⟨hraise, -⟩ := exec_cases h
  · exact hstack
  obtain ⟨-, -, hsame⟩ | ⟨rest, -, hpopped, hrest⟩ | ⟨nnn, -, -, hpushed⟩ := exec_stack h hraise
  · rwa [hsame]
  · rw [hrest]
    rw [hpopped] at hstack
    exact fun a ha => hstack a (List.mem_cons_of_mem _ ha)
  · rw [hpushed]
    refine List.forall_mem_cons.mpr ⟨?_, hstack⟩
    rw [toNat_pc_add_two]
    omega

/-- Settles O22: `pc` advances by an even number, returns to an even address, or takes a target. -/
theorem onlyOddTargetsMakePcOdd : Obligations.OnlyOddTargetsMakePcOdd := by
  intro i s t hpc hstack h
  refine ⟨exec_keeps_even_stack h hpc hstack, fun hodd => ?_⟩
  obtain (heq | heq | heq | hmem) | ⟨nnn, hi, heq⟩ | ⟨nnn, hi, heq⟩ := exec_pc h
  · rw [heq] at hodd
    omega
  · rw [heq, toNat_pc_add_two] at hodd
    omega
  · rw [heq] at hodd
    have hskip : (s.pc + 4).toNat = (s.pc.toNat + 4) % 65536 := toNat_nextPc_skip s.pc
    omega
  · have heven := hstack t.pc hmem
    omega
  · exact .inl ⟨nnn, hi, by rwa [heq, toNat_zext16 nnn (by decide)] at hodd⟩
  · exact .inr ⟨nnn, hi, by rwa [heq, toNat_zext16_add_zext16] at hodd⟩

/-! Sequences of executed instructions. -/

theorem execAll_cons_eq_next {i : Instr} {rest : List Instr} {s t : State} :
    execAll (i :: rest) s = .next t ↔ ∃ u, exec i s = .next u ∧ execAll rest u = .next t := by
  rw [execAll]
  cases exec i s <;> simp

theorem execAll_append_eq_next {front back : List Instr} {s t : State} :
    execAll (front ++ back) s = .next t ↔ ∃ u, execAll front s = .next u ∧ execAll back u = .next t := by
  induction front generalizing s with
  | nil => simp [execAll]
  | cons i front ih =>
    simp only [List.cons_append, execAll_cons_eq_next, ih]
    constructor
    · rintro ⟨v, hv, u, hu, ht⟩; exact ⟨u, ⟨v, hv, hu⟩, ht⟩
    · rintro ⟨u, ⟨v, hv, hu⟩, ht⟩; exact ⟨v, hv, u, hu, ht⟩

/-- A state without a fault comes from a state without one, by an instruction that raised none. -/
theorem exec_of_no_fault {i : Instr} {s t : State} (h : exec i s = .next t) (ht : t.fault = none) :
    s.fault = none ∧ raisedFault s i = none := by
  obtain ⟨r, -, rfl⟩ | ⟨hraise, -, -, -, -, -, -, -, -, -, -, hfault, -⟩ := exec_cases h
  · cases ht
  · exact ⟨hfault ▸ ht, hraise⟩

theorem execAll_of_no_fault {body : List Instr} {s t : State} (h : execAll body s = .next t) (ht : t.fault = none) :
    s.fault = none := by
  induction body generalizing s with
  | nil => cases h; exact ht
  | cons i rest ih =>
    obtain ⟨u, hu, hrest⟩ := execAll_cons_eq_next.mp h
    exact (exec_of_no_fault hu (ih hrest)).1

/-- A sequence that, run without a fault, leaves the stack as it was. -/
def StackNeutral (body : List Instr) : Prop :=
  ∀ s t, execAll body s = .next t → t.fault = none → t.stack = s.stack

/-- A call, a stack-neutral sequence and a return: the return pops what the call pushed. -/
theorem StackNeutral.call_ret {body : List Instr} (hbody : StackNeutral body) {nnn : Addr12} {s t : State}
    (h : execAll (.call nnn :: (body ++ [.ret])) s = .next t) (ht : t.fault = none) :
    t.stack = s.stack ∧ t.pc = s.pc + 2 := by
  obtain ⟨u, hcall, hrest⟩ := execAll_cons_eq_next.mp h
  obtain ⟨v, hv, hlast⟩ := execAll_append_eq_next.mp hrest
  obtain ⟨w, hret, hnil⟩ := execAll_cons_eq_next.mp hlast
  cases hnil
  obtain ⟨hvfault, hvraise⟩ := exec_of_no_fault hret ht
  obtain ⟨-, huraise⟩ := exec_of_no_fault hcall (execAll_of_no_fault hv hvfault)
  obtain ⟨-, hnot, -⟩ | ⟨-, hcontra, -⟩ | ⟨-, -, -, hpushed⟩ := exec_stack hcall huraise
  · exact absurd rfl (hnot nnn)
  · cases hcontra
  obtain ⟨hnot, -⟩ | ⟨rest, -, hpopped, hrest⟩ | ⟨_, hcontra, -⟩ := exec_stack hret hvraise
  · exact absurd rfl hnot
  · rw [hbody u v hv hvfault, hpushed] at hpopped
    obtain ⟨hpc, hstack⟩ := List.cons.inj hpopped
    exact ⟨hrest.trans hstack.symm, hpc.symm⟩
  · cases hcontra

theorem stackNeutral_of_balanced {body : List Instr} (h : Balanced body) : StackNeutral body := by
  induction h with
  | nil => intro s t h _; cases h; rfl
  | other hret hcall _ ih =>
    intro s t h ht
    obtain ⟨u, hu, hrest⟩ := execAll_cons_eq_next.mp h
    obtain ⟨-, hstack, -⟩ := eachComponentHasItsWriters _ s u hu
    rw [ih u t hrest ht]
    exact of_not_not fun hne => (hstack hne).elim hret (not_exists.mpr hcall)
  | @call nnn body rest _ _ ihb ihr =>
    intro s t h ht
    rw [List.append_cons, ← List.cons_append] at h
    obtain ⟨u, hu, hrest⟩ := execAll_append_eq_next.mp h
    rw [ihr u t hrest ht]
    exact (ihb.call_ret hu (execAll_of_no_fault hrest ht)).1

/-- Settles O31: balanced sequences are stack-neutral, by induction on how they are built. -/
theorem callsAndReturnsNest : Obligations.CallsAndReturnsNest := fun _ s t hbody _ ht =>
  ⟨fun h => stackNeutral_of_balanced hbody s t h ht, fun _ h => (stackNeutral_of_balanced hbody).call_ret h ht⟩

end Sys2Proof.Machine
end

section
/-! The load, the boot and the font (70_reset_and_hazards.md R251 to R254, 44_index_memory.md R182). -/

namespace Sys2Proof.Machine

/-- A run of writes touches memory alone. -/
theorem State.memWriteBytes_frame (s : State) (a : Nat) (bs : List Byte) :
    s.memWriteBytes a bs = { s with mem := (s.memWriteBytes a bs).mem } := by
  induction bs generalizing s a with
  | nil => rfl
  | cons b bs ih => exact ih (s.memWrite a b) (a + 1)

/-- A run of writes that ends at 0xFFF or below does not wrap, so an address outside it stands. -/
theorem State.memRead_memWriteBytes_of_outside_fits (s : State) {a c : Nat} {bs : List Byte}
    (hfits : a + bs.length ≤ 4096) (hc : c < 4096) (hout : c < a ∨ a + bs.length ≤ c) :
    (s.memWriteBytes a bs).memRead c = s.memRead c :=
  s.memRead_memWriteBytes_of_outside a c bs fun j hj => by omega

/-- What an accepted load leaves. -/
theorem hostLoad_spec {s t : State} {a : Nat} {bytes : List Byte} (h : hostLoad a bytes s = .next t) :
    (∀ j, (h : j < bytes.length) → t.memRead (a + j) = bytes[j]) ∧
    (∀ c, c < 4096 → (c < a ∨ a + bytes.length ≤ c) → t.memRead c = s.memRead c) ∧
    t = { s with mem := t.mem, loaded := true } := by
  obtain ⟨-, -, hfits, rfl⟩ := (hostLoad_eq_next ..).mp h
  refine ⟨fun j hj => ?_, fun c hc hout => ?_, ?_⟩
  · exact State.memRead_memWriteBytes_of_inside s a j bytes hj (by omega)
  · exact s.memRead_memWriteBytes_of_outside_fits hfits hc hout
  · exact congrArg State.markLoaded (s.memWriteBytes_frame a bytes)

/-- Settles O59: an accepted load leaves the mark that refuses every further one. -/
theorem loadIsAcceptedOnceWhereItFits : Obligations.LoadIsAcceptedOnceWhereItFits := by
  intro s a bytes
  refine ⟨⟨fun ⟨t, h⟩ => ?_, fun ⟨hiter, hloaded, hfits⟩ => ?_⟩, fun t h => ?_⟩
  · obtain ⟨hiter, hloaded, hfits, -⟩ := (hostLoad_eq_next ..).mp h
    exact ⟨hiter, hloaded, hfits⟩
  · exact ⟨_, (hostLoad_eq_next ..).mpr ⟨hiter, hloaded, hfits, rfl⟩⟩
  · obtain ⟨hbytes, hother, hframe⟩ := hostLoad_spec h
    refine ⟨hbytes, hother, hframe, fun c more u hagain => ?_⟩
    obtain ⟨-, hloaded, -⟩ := (hostLoad_eq_next ..).mp hagain
    rw [hframe] at hloaded
    cases hloaded

/-- Settles O57: at 0x200 the load's limit is the ROM's. -/
theorem bootLoadsRomOrRefuses : Obligations.BootLoadsRomOrRefuses := by
  intro cfg rom
  refine ⟨fun hfits => ?_, fun hlong => ?_⟩
  · have hload : boot cfg rom = .next ((State.create cfg).memWriteBytes romBase rom).markLoaded :=
      (hostLoad_eq_next ..).mpr ⟨rfl, rfl, by rw [romBase]; omega, rfl⟩
    obtain ⟨hbytes, hother, hframe⟩ := hostLoad_spec hload
    refine ⟨_, hload, ?_, hbytes, hother, hframe⟩
    rw [hframe]
    rfl
  · have htoo : romBase + romMax < romBase + rom.length := by rw [romMax]; omega
    have hiter : ¬ (State.create cfg).iter ≠ 0 := not_not.mpr rfl
    have hloaded : ¬ (State.create cfg).loaded = true := Bool.false_ne_true
    rw [boot, hostLoad, if_neg hiter, if_neg hloaded, if_pos htoo]

/-- Settles O56: I becomes 5 times the digit and memory stays, so the sprite bytes there are the font's. -/
theorem fontGlyphReachedByFx29 : Obligations.FontGlyphReachedByFx29 := by
  intro x s hfont hdigit
  obtain ⟨-, -, t, hanswers, hi, -, -, hkeeps⟩ := indexRegisterWrites 0 x s
  obtain ⟨-, hmem, -⟩ := hkeeps
  refine ⟨t, hanswers, fun j hj hlt => ?_⟩
  have hread : t.memRead (t.i.toNat + j) = s.cfg.font[5 * (s.reg x).toNat + j] := by
    rw [hmem _ List.not_mem_nil, hi, Nat.mul_comm]
    exact hfont _ hlt
  have hlength : j < (t.sprite 5).length := (State.length_memReadBytes ..).symm ▸ hj
  rw [← hread, List.getElem?_eq_getElem hlength]
  exact congrArg some (State.getElem_memReadBytes ..)

end Sys2Proof.Machine
end

section
/-! Pixels and inverted sets of pixels (10_state.md R36, R37, 41_display.md R121, R122). -/

namespace Sys2Proof.Machine

/-! Pixels. -/

theorem fbByte_fbXor (fb : Framebuffer) {j : Nat} (hj : j < 256) (k : Nat) (mask : Byte) :
    fbByte (fbXor fb j mask) k = if k = j then fbByte fb k ^^^ mask else fbByte fb k := by
  rw [fbXor, fbByte, Vector.getElem?_setIfInBounds]
  by_cases hk : k = j
  · rw [if_pos hk, if_pos hk.symm, hk]
    simp [hj]
  · rw [if_neg hk, if_neg (Ne.symm hk), ← fbByte]

/-- A byte XORed with a mask inverts the pixels at the mask's 1-bits. -/
theorem pixel_fbXor (fb : Framebuffer) {j : Nat} (hj : j < 256) (mask : Byte) (c r : Nat) :
    pixel (fbXor fb j mask) c r =
      if pixelByte c r = j ∧ mask.getLsbD (pixelBit c) = true then !pixel fb c r else pixel fb c r := by
  rw [pixel, pixel, fbByte_fbXor fb hj]
  by_cases hbyte : pixelByte c r = j
  · rw [if_pos hbyte, BitVec.getLsbD_xor]
    cases mask.getLsbD (pixelBit c) <;> simp [hbyte]
  · rw [if_neg hbyte, if_neg fun h => hbyte h.1]

theorem pixelByte_lt {c r : Nat} (hc : c < 64) (hr : r < 32) : pixelByte c r < 256 := by
  rw [pixelByte]
  omega

/-- A pixel on the screen is known by its byte and its bit. -/
theorem pixel_position_inj {c c' r r' : Nat} (hc : c < 64) (hc' : c' < 64) :
    pixelByte c' r' = pixelByte c r ∧ pixelBit c' = pixelBit c ↔ c' = c ∧ r' = r := by
  simp only [pixelByte, pixelBit]
  omega

/-- Every bit of every byte is a pixel on the screen. -/
theorem exists_pixel_position {j k : Nat} (hj : j < 256) (hk : k < 8) :
    ∃ c r, c < 64 ∧ r < 32 ∧ pixelByte c r = j ∧ pixelBit c = k := by
  refine ⟨8 * (j % 8) + (7 - k), j / 8, ?_⟩
  simp only [pixelByte, pixelBit]
  omega

/-- A framebuffer is its pixels. -/
theorem framebuffer_ext {fb fb' : Framebuffer} (h : ∀ c r, c < 64 → r < 32 → pixel fb c r = pixel fb' c r) :
    fb = fb' := by
  refine Vector.ext fun j hj => BitVec.eq_of_getLsbD_eq fun k hk => ?_
  obtain ⟨c, r, hc, hr, hbyte, hbit⟩ := exists_pixel_position hj hk
  have hpixel := h c r hc hr
  simpa [pixel, fbByte, hbyte, hbit, hj] using hpixel

/-! Inverting a set of pixels. -/

/-- From one framebuffer and collision to another: exactly the pixels of `S` on the screen are inverted, and the
collision is raised exactly when one of them was lit (41_display.md R122). -/
structure Inverts (S : Nat → Nat → Prop) (acc acc' : Framebuffer × Bool) : Prop where
  covered : ∀ c r, c < 64 → r < 32 → S c r → pixel acc'.1 c r = !pixel acc.1 c r
  uncovered : ∀ c r, c < 64 → r < 32 → ¬ S c r → pixel acc'.1 c r = pixel acc.1 c r
  collides : acc'.2 = true ↔ acc.2 = true ∨ ∃ c r, c < 64 ∧ r < 32 ∧ S c r ∧ pixel acc.1 c r = true

theorem Inverts.refl_of_none {S : Nat → Nat → Prop} (h : ∀ c r, c < 64 → r < 32 → ¬ S c r) (acc : Framebuffer × Bool) :
    Inverts S acc acc where
  covered c r hc hr hS := absurd hS (h c r hc hr)
  uncovered _ _ _ _ _ := rfl
  collides := ⟨.inl, fun hor => hor.elim id fun ⟨c, r, hc, hr, hS, _⟩ => absurd hS (h c r hc hr)⟩

theorem Inverts.congr {S T : Nat → Nat → Prop} {acc acc' : Framebuffer × Bool} (h : Inverts S acc acc')
    (hST : ∀ c r, c < 64 → r < 32 → (S c r ↔ T c r)) : Inverts T acc acc' where
  covered c r hc hr hT := h.covered c r hc hr ((hST c r hc hr).mpr hT)
  uncovered c r hc hr hT := h.uncovered c r hc hr (mt (hST c r hc hr).mp hT)
  collides := by
    rw [h.collides]
    refine or_congr_right (exists₂_congr fun c r => ?_)
    exact and_congr_right fun hc => and_congr_right fun hr => and_congr_left' (hST c r hc hr)

/-- Two sets of pixels one after the other, when they have no pixel in common. -/
theorem Inverts.trans {S T : Nat → Nat → Prop} {acc acc' acc'' : Framebuffer × Bool} (hS : Inverts S acc acc')
    (hT : Inverts T acc' acc'') (hdisjoint : ∀ c r, S c r → ¬ T c r) :
    Inverts (fun c r => S c r ∨ T c r) acc acc'' where
  covered c r hc hr hor := by
    obtain h | h := hor
    · rw [hT.uncovered c r hc hr (hdisjoint c r h), hS.covered c r hc hr h]
    · rw [hT.covered c r hc hr h, hS.uncovered c r hc hr fun h' => hdisjoint c r h' h]
  uncovered c r hc hr hor := by
    obtain ⟨hnS, hnT⟩ := not_or.mp hor
    rw [hT.uncovered c r hc hr hnT, hS.uncovered c r hc hr hnS]
  collides := by
    have hseen : ∀ c r, c < 64 → r < 32 → T c r → pixel acc'.1 c r = pixel acc.1 c r := fun c r hc hr h =>
      hS.uncovered c r hc hr fun h' => hdisjoint c r h' h
    rw [hT.collides, hS.collides, or_assoc]
    refine or_congr_right ⟨?_, ?_⟩
    · rintro (⟨c, r, hc, hr, h, hlit⟩ | ⟨c, r, hc, hr, h, hlit⟩)
      · exact ⟨c, r, hc, hr, .inl h, hlit⟩
      · exact ⟨c, r, hc, hr, .inr h, hseen c r hc hr h ▸ hlit⟩
    · rintro ⟨c, r, hc, hr, h | h, hlit⟩
      · exact .inl ⟨c, r, hc, hr, h, hlit⟩
      · exact .inr ⟨c, r, hc, hr, h, (hseen c r hc hr h).trans hlit⟩

/-- The set of pixels fixes what comes out. -/
theorem Inverts.unique {S : Nat → Nat → Prop} {acc a b : Framebuffer × Bool} (ha : Inverts S acc a)
    (hb : Inverts S acc b) : a = b := by
  refine Prod.ext (framebuffer_ext fun c r hc hr => ?_) (Bool.eq_iff_iff.mpr (ha.collides.trans hb.collides.symm))
  by_cases hS : S c r
  · rw [ha.covered c r hc hr hS, hb.covered c r hc hr hS]
  · rw [ha.uncovered c r hc hr hS, hb.uncovered c r hc hr hS]

end Sys2Proof.Machine
end

section
/-! The blitter as an inversion of the pixels its sprite covers (41_display.md R121 to R129). -/

namespace Sys2Proof.Machine

/-- The pixels at the 1-bits of a mask for framebuffer byte `j`. -/
def MaskCovers (j : Nat) (mask : Byte) (c r : Nat) : Prop :=
  pixelByte c r = j ∧ mask.getLsbD (pixelBit c) = true

/-- An XORed byte inverts the pixels of its mask. -/
theorem inverts_fbXor (acc : Framebuffer × Bool) {j : Nat} (hj : j < 256) (mask : Byte) {lit : Bool}
    (hlit : lit = true ↔ ∃ c r, c < 64 ∧ r < 32 ∧ MaskCovers j mask c r ∧ pixel acc.1 c r = true) :
    Inverts (MaskCovers j mask) acc (fbXor acc.1 j mask, acc.2 || lit) where
  covered c r _ _ h := (pixel_fbXor acc.1 hj mask c r).trans (if_pos h)
  uncovered c r _ _ h := (pixel_fbXor acc.1 hj mask c r).trans (if_neg h)
  collides := by rw [Bool.or_eq_true, hlit]

theorem maskCovers_pixel_iff {c c' r r' : Nat} (hc : c < 64) (hc' : c' < 64) :
    MaskCovers (pixelByte c r) ((1 : Byte) <<< pixelBit c) c' r' ↔ c' = c ∧ r' = r := by
  have hbit : ((1 : Byte) <<< pixelBit c).getLsbD (pixelBit c') = true ↔ pixelBit c' = pixelBit c := by
    have hlt : pixelBit c' < 8 := by rw [pixelBit]; omega
    simp [hlt]
    omega
  rw [MaskCovers, hbit, pixel_position_inj hc hc']

/-- A flipped pixel inverts itself, and collides when it was lit. -/
theorem inverts_flipPixel (acc : Framebuffer × Bool) {c r : Nat} (hc : c < 64) (hr : r < 32) :
    Inverts (fun c' r' => c' = c ∧ r' = r) acc (flipPixel acc.1 c r, acc.2 || pixel acc.1 c r) := by
  refine (inverts_fbXor acc (pixelByte_lt hc hr) _ ⟨fun h => ?_, ?_⟩).congr fun c' r' hc' _ =>
    maskCovers_pixel_iff hc hc'
  · exact ⟨c, r, hc, hr, (maskCovers_pixel_iff hc hc).mpr ⟨rfl, rfl⟩, h⟩
  · rintro ⟨c', r', hc', -, h, hlit⟩
    obtain ⟨rfl, rfl⟩ := (maskCovers_pixel_iff hc hc').mp h
    exact hlit

theorem screenColumn_eq_some_iff (h : HWrap) (k c : Nat) :
    screenColumn h k = some c ↔ (k < 64 ∧ c = k) ∨ (64 ≤ k ∧ h = .wrap ∧ c = k % 64) := by
  unfold screenColumn
  by_cases hk : k < 64
  · simp [hk, eq_comm, Nat.not_le.mpr hk]
  · cases h <;> simp [hk, eq_comm, Nat.le_of_not_lt hk]

theorem screenColumn_lt {h : HWrap} {k c : Nat} (hcol : screenColumn h k = some c) : c < 64 := by
  obtain ⟨hk, rfl⟩ | ⟨-, -, rfl⟩ := (screenColumn_eq_some_iff h k c).mp hcol
  · exact hk
  · exact Nat.mod_lt _ (by decide)

/-- Bit `7 - b` of a sprite byte, with its origin at column `x0` of row `row`, lands on pixel (c, r). -/
def BitCovers (h : HWrap) (row x0 : Nat) (sb : Byte) (b c r : Nat) : Prop :=
  r = row ∧ sb.getLsbD (7 - b) = true ∧ screenColumn h (x0 + b) = some c

theorem inverts_blitBit (h : HWrap) {row : Nat} (hrow : row < 32) (x0 : Nat) (sb : Byte) (acc : Framebuffer × Bool)
    (b : Nat) : Inverts (BitCovers h row x0 sb b) acc (blitBit h row x0 sb acc b) := by
  rw [blitBit]
  by_cases hbit : sb.getLsbD (7 - b) = true
  · rw [if_pos hbit]
    cases hcol : screenColumn h (x0 + b) with
    | none => exact .refl_of_none (fun c r _ _ hcov => by simp [BitCovers, hcol] at hcov) acc
    | some k =>
      refine (inverts_flipPixel acc (screenColumn_lt hcol) hrow).congr fun c r _ _ => ?_
      rw [BitCovers, hcol, Option.some_inj]
      constructor
      · rintro ⟨rfl, rfl⟩; exact ⟨rfl, hbit, rfl⟩
      · rintro ⟨rfl, -, rfl⟩; exact ⟨rfl, rfl⟩
  · rw [if_neg hbit]
    exact .refl_of_none (fun c r _ _ hcov => hbit hcov.2.1) acc

/-- Two bits of one sprite byte never land on one pixel: their columns are less than 8 apart. -/
theorem BitCovers.inj {h : HWrap} {row x0 : Nat} {sb : Byte} {b b' c r : Nat} (hb : b < 8) (hb' : b' < 8)
    (hcov : BitCovers h row x0 sb b c r) (hcov' : BitCovers h row x0 sb b' c r) : b = b' := by
  obtain ⟨-, -, hcol⟩ := hcov
  obtain ⟨-, -, hcol'⟩ := hcov'
  rw [screenColumn_eq_some_iff] at hcol hcol'
  omega

/-- The pixels a sprite byte covers. -/
def RowCovers (h : HWrap) (row x0 : Nat) (sb : Byte) (c r : Nat) : Prop := ∃ b, b < 8 ∧ BitCovers h row x0 sb b c r

theorem inverts_foldl_blitBit (h : HWrap) {row : Nat} (hrow : row < 32) (x0 : Nat) (sb : Byte) {bits : List Nat}
    (hbits : ∀ b ∈ bits, b < 8) (hnodup : bits.Nodup) (acc : Framebuffer × Bool) :
    Inverts (fun c r => ∃ b ∈ bits, BitCovers h row x0 sb b c r) acc (bits.foldl (blitBit h row x0 sb) acc) := by
  induction bits generalizing acc with
  | nil => exact .refl_of_none (by simp) acc
  | cons b bits ih =>
    obtain ⟨hb, hbits⟩ := List.forall_mem_cons.mp hbits
    obtain ⟨hnot, hnodup⟩ := List.nodup_cons.mp hnodup
    refine ((inverts_blitBit h hrow x0 sb acc b).trans (ih hbits hnodup _) ?_).congr (by simp)
    rintro c r hcov ⟨b', hb', hcov'⟩
    exact hnot (hcov.inj hb (hbits b' hb') hcov' ▸ hb')

theorem inverts_blitRow (h : HWrap) {row : Nat} (hrow : row < 32) (x0 : Nat) (sb : Byte) (acc : Framebuffer × Bool) :
    Inverts (RowCovers h row x0 sb) acc (blitRow h row x0 sb acc) :=
  (inverts_foldl_blitBit h hrow x0 sb (fun _ => List.mem_range.mp) List.nodup_range acc).congr fun c r _ _ => by
    simp [RowCovers]

theorem spriteCovers_iff (h : HWrap) (sprite : List Byte) (x0 y0 c r : Nat) :
    SpriteCovers h sprite x0 y0 c r ↔
      ∃ i, ∃ hi : i < sprite.length, RowCovers h ((y0 + i) % 32) x0 sprite[i] c r := by
  simp only [SpriteCovers, RowCovers, BitCovers, screenColumn_eq_some_iff]
  constructor
  · rintro ⟨i, b, hi, hb, hbit, hr, hcol⟩; exact ⟨i, hi, b, hb, hr, hbit, hcol⟩
  · rintro ⟨i, hi, b, hb, hr, hbit, hcol⟩; exact ⟨i, b, hi, hb, hbit, hr, hcol⟩

theorem spriteCovers_cons_iff (h : HWrap) (sb : Byte) (rest : List Byte) (x0 y0 c r : Nat) :
    SpriteCovers h (sb :: rest) x0 y0 c r ↔
      RowCovers h (y0 % 32) x0 sb c r ∨ SpriteCovers h rest x0 (y0 + 1) c r := by
  simp only [spriteCovers_iff]
  constructor
  · rintro ⟨i, hi, hcov⟩
    cases i with
    | zero => exact .inl hcov
    | succ i => exact .inr ⟨i, Nat.lt_of_succ_lt_succ hi, by rwa [Nat.add_right_comm]⟩
  · rintro (hcov | ⟨i, hi, hcov⟩)
    · exact ⟨0, Nat.succ_pos _, hcov⟩
    · exact ⟨i + 1, Nat.succ_lt_succ hi, by rwa [Nat.add_right_comm] at hcov⟩

/-- Sprites of at most 32 bytes put each byte in a row of its own. -/
theorem inverts_blitRows (h : HWrap) (x0 : Nat) {sprite : List Byte} (hlength : sprite.length ≤ 32) (y0 : Nat)
    (acc : Framebuffer × Bool) : Inverts (SpriteCovers h sprite x0 y0) acc (blitRows h x0 y0 sprite acc) := by
  induction sprite generalizing y0 acc with
  | nil => exact .refl_of_none (by simp [spriteCovers_iff]) acc
  | cons sb rest ih =>
    rw [List.length_cons] at hlength
    have hrow := inverts_blitRow h (Nat.mod_lt y0 (by decide)) x0 sb acc
    refine (hrow.trans (ih (by omega) (y0 + 1) _) ?_).congr fun c r _ _ => (spriteCovers_cons_iff ..).symm
    rintro c r ⟨_, _, hr, -⟩ hrest
    obtain ⟨i, hi, _, _, hr', -⟩ := (spriteCovers_iff ..).mp hrest
    omega

theorem inverts_blit (h : HWrap) (fb : Framebuffer) {sprite : List Byte} (hlength : sprite.length ≤ 32) (x0 y0 : Nat) :
    Inverts (SpriteCovers h sprite x0 y0) (fb, false) (blit h fb sprite x0 y0) :=
  inverts_blitRows h x0 hlength y0 (fb, false)

theorem SpriteCovers.on_screen {h : HWrap} {sprite : List Byte} {x0 y0 c r : Nat}
    (hcov : SpriteCovers h sprite x0 y0 c r) : c < 64 ∧ r < 32 := by
  obtain ⟨i, hi, b, hb, rfl, -, hcol⟩ := (spriteCovers_iff ..).mp hcov
  exact ⟨screenColumn_lt hcol, Nat.mod_lt _ (by decide)⟩

/-- A blit collides exactly when a covered pixel was lit (R122). -/
theorem blit_collides_iff (h : HWrap) (fb : Framebuffer) {sprite : List Byte} (hlength : sprite.length ≤ 32)
    (x0 y0 : Nat) :
    (blit h fb sprite x0 y0).2 = true ↔ ∃ c r, SpriteCovers h sprite x0 y0 c r ∧ pixel fb c r = true := by
  rw [(inverts_blit h fb hlength x0 y0).collides]
  constructor
  · rintro (hfalse | ⟨c, r, -, -, hcov, hlit⟩)
    · cases hfalse
    · exact ⟨c, r, hcov, hlit⟩
  · rintro ⟨c, r, hcov, hlit⟩
    obtain ⟨hc, hr⟩ := hcov.on_screen
    exact .inr ⟨c, r, hc, hr, hcov, hlit⟩

theorem State.length_sprite_le (s : State) (n : Nibble) : (s.sprite n).length ≤ 32 := by
  have hn := n.isLt
  rw [State.sprite, State.length_memReadBytes]
  omega

/-- Settles O26: the blit inverts the covered pixels, and the flag is its collision. -/
theorem drwInvertsCoveredPixels : Obligations.DrwInvertsCoveredPixels := by
  intro x y n s
  have hinverts := inverts_blit s.cfg.hWrap s.fb (s.length_sprite_le n) ((s.reg x).toNat % 64) ((s.reg y).toNat % 32)
  have hcollides := blit_collides_iff s.cfg.hWrap s.fb (s.length_sprite_le n) ((s.reg x).toNat % 64)
    ((s.reg y).toNat % 32)
  refine ⟨_, s.sprite n, exec_drw x y n s, State.length_memReadBytes ..,
    fun i hi => State.getElem_memReadBytes .., ?pixels, ?lit, ?unlit, rfl, rfl, ?frame⟩
  case pixels => exact fun c r hc hr => ⟨hinverts.covered c r hc hr, hinverts.uncovered c r hc hr⟩
  case lit =>
    intro hlit
    rw [State.reg_finish, State.reg_setReg_self]
    exact (flagByte_eq_one_iff _).mpr (hcollides.mpr hlit)
  case unlit =>
    intro hunlit
    rw [State.reg_finish, State.reg_setReg_self, eq_false_of_ne_true (mt hcollides.mp hunlit)]
    rfl
  case frame =>
    rw [Footprint.keeps_finish_iff, Footprint.keeps_setReg_iff _ List.mem_cons_self, Footprint.keeps_setFb_iff _ rfl]
    exact Footprint.Keeps.refl ..

/-- Settles O28: the same pixels are inverted twice, and the second draw meets each of them inverted. -/
theorem drawingTwiceRestores : Obligations.DrawingTwiceRestores := by
  intro h fb sprite x0 y0 hlength _ _
  have hlength' : sprite.length ≤ 32 := by omega
  have hfirst := inverts_blit h fb hlength' x0 y0
  have hsecond := inverts_blit h (blit h fb sprite x0 y0).1 hlength' x0 y0
  refine ⟨framebuffer_ext fun c r hc hr => ?_, ?_⟩
  · by_cases hcov : SpriteCovers h sprite x0 y0 c r
    · rw [hsecond.covered c r hc hr hcov, hfirst.covered c r hc hr hcov, Bool.not_not]
    · rw [hsecond.uncovered c r hc hr hcov, hfirst.uncovered c r hc hr hcov]
  · rw [blit_collides_iff _ _ hlength']
    refine exists₂_congr fun c r => and_congr_right fun hcov => ?_
    obtain ⟨hc, hr⟩ := hcov.on_screen
    rw [hfirst.covered c r hc hr hcov, Bool.not_eq_true']

end Sys2Proof.Machine
end

section
/-! The byte-level form of the blit (41_display.md R128). -/

namespace Sys2Proof.Machine

theorem byte_ne_zero_iff (b : Byte) : b ≠ 0 ↔ ∃ k, k < 8 ∧ b.getLsbD k = true := by
  constructor
  · intro hne
    by_contra! hnone
    exact hne (BitVec.eq_of_getLsbD_eq fun k hk => by simpa using hnone k hk)
  · rintro ⟨k, -, hbit⟩ rfl
    simp at hbit

/-- A masked byte inverts the mask's pixels, and collides when it shares a 1-bit with the mask. -/
theorem inverts_blitMask {j : Nat} (hj : j < 256) (mask : Byte) (acc : Framebuffer × Bool) :
    Inverts (MaskCovers j mask) acc (blitMask j mask acc) := by
  refine inverts_fbXor acc hj mask ?_
  rw [bne_iff_ne, byte_ne_zero_iff]
  constructor
  · rintro ⟨k, hk, hbit⟩
    obtain ⟨c, r, hc, hr, rfl, rfl⟩ := exists_pixel_position hj hk
    rw [BitVec.getLsbD_and, Bool.and_eq_true] at hbit
    exact ⟨c, r, hc, hr, ⟨rfl, hbit.2⟩, hbit.1⟩
  · rintro ⟨c, r, hc, hr, ⟨rfl, hmask⟩, hlit⟩
    refine ⟨pixelBit c, by rw [pixelBit]; omega, ?_⟩
    rw [BitVec.getLsbD_and, hmask, Bool.and_true]
    exact hlit

theorem maskCovers_row_iff {row q c r : Nat} (hq : q < 8) (hc : c < 64) (mask : Byte) :
    MaskCovers (8 * row + q) mask c r ↔ r = row ∧ c / 8 = q ∧ mask.getLsbD (7 - c % 8) = true := by
  have hbyte : pixelByte c r = 8 * row + q ↔ r = row ∧ c / 8 = q := by
    rw [pixelByte]
    omega
  rw [MaskCovers, hbyte, pixelBit, and_assoc]

/-- The bits from `lo` up to `hi` of a sprite byte, leftmost first, and the pixels they land on. -/
def SpanCovers (h : HWrap) (row x0 : Nat) (sb : Byte) (lo hi c r : Nat) : Prop :=
  ∃ b, lo ≤ b ∧ b < hi ∧ BitCovers h row x0 sb b c r

theorem rowCovers_iff_span {k : Nat} (hk : k ≤ 8) (h : HWrap) (row x0 : Nat) (sb : Byte) (c r : Nat) :
    RowCovers h row x0 sb c r ↔ SpanCovers h row x0 sb 0 k c r ∨ SpanCovers h row x0 sb k 8 c r := by
  constructor
  · rintro ⟨b, hb, hcov⟩
    obtain hlt | hge := Nat.lt_or_ge b k
    · exact .inl ⟨b, Nat.zero_le b, hlt, hcov⟩
    · exact .inr ⟨b, hge, hb, hcov⟩
  · rintro (⟨b, -, hb, hcov⟩ | ⟨b, -, hb, hcov⟩)
    · exact ⟨b, Nat.lt_of_lt_of_le hb hk, hcov⟩
    · exact ⟨b, hb, hcov⟩

/-- The sprite byte shifted right is the mask of the bits that stay in the origin's byte. -/
theorem maskCovers_origin_iff (h : HWrap) (row : Nat) {x0 c : Nat} (hx0 : x0 < 64) (hc : c < 64) (sb : Byte) (r : Nat) :
    MaskCovers (8 * row + x0 / 8) (sb >>> (x0 % 8)) c r ↔ SpanCovers h row x0 sb 0 (8 - x0 % 8) c r := by
  rw [maskCovers_row_iff (by omega) hc, BitVec.getLsbD_ushiftRight]
  constructor
  · rintro ⟨hr, hbyte, hbit⟩
    have hlt := BitVec.lt_of_getLsbD hbit
    have hindex : x0 % 8 + (7 - c % 8) = 7 - (c - x0) := by omega
    refine ⟨c - x0, Nat.zero_le _, by omega, hr, hindex ▸ hbit, (screenColumn_eq_some_iff ..).mpr (.inl ?_)⟩
    omega
  · rintro ⟨b, -, hb, hr, hbit, hcol⟩
    rw [screenColumn_eq_some_iff] at hcol
    have hindex : x0 % 8 + (7 - c % 8) = 7 - b := by omega
    exact ⟨hr, by omega, hindex ▸ hbit⟩

/-- The sprite byte shifted left is the mask of the bits that span into byte `q`, where they land. -/
theorem maskCovers_next_iff {h : HWrap} {x0 q : Nat} (hq : q < 8)
    (hlands : ∀ b, 8 - x0 % 8 ≤ b → b < 8 → screenColumn h (x0 + b) = some (8 * q + (b - (8 - x0 % 8))))
    (row : Nat) {c : Nat} (hc : c < 64) (sb : Byte) (r : Nat) :
    MaskCovers (8 * row + q) (sb <<< (8 - x0 % 8)) c r ↔ SpanCovers h row x0 sb (8 - x0 % 8) 8 c r := by
  rw [maskCovers_row_iff hq hc, BitVec.getLsbD_shiftLeft]
  constructor
  · rintro ⟨hr, hbyte, hbit⟩
    simp only [Bool.and_eq_true, decide_eq_true_eq, Bool.not_eq_true', decide_eq_false_iff_not] at hbit
    obtain ⟨⟨-, hge⟩, hbit⟩ := hbit
    have hindex : 7 - c % 8 - (8 - x0 % 8) = 7 - (8 - x0 % 8 + c % 8) := by omega
    refine ⟨8 - x0 % 8 + c % 8, by omega, by omega, hr, hindex ▸ hbit, ?_⟩
    rw [hlands _ (by omega) (by omega), Option.some_inj]
    omega
  · rintro ⟨b, hge, hb, hr, hbit, hcol⟩
    rw [hlands b hge hb, Option.some_inj] at hcol
    have hindex : 7 - c % 8 - (8 - x0 % 8) = 7 - b := by omega
    rw [hindex, hbit]
    refine ⟨hr, by omega, ?_⟩
    simp
    omega

/-- Where no bit past the origin's byte lands, the first mask is the whole row. -/
theorem inverts_origin_mask {h : HWrap} {row x0 : Nat} (hrow : row < 32) (hx0 : x0 < 64) (sb : Byte)
    (hnone : ∀ b, 8 - x0 % 8 ≤ b → b < 8 → screenColumn h (x0 + b) = none) (acc : Framebuffer × Bool) :
    Inverts (RowCovers h row x0 sb) acc (blitMask (8 * row + x0 / 8) (sb >>> (x0 % 8)) acc) := by
  refine (inverts_blitMask (by omega) _ acc).congr fun c r hc _ => ?_
  have hno : ¬ SpanCovers h row x0 sb (8 - x0 % 8) 8 c r := by
    rintro ⟨b, hge, hb, -, -, hcol⟩
    rw [hnone b hge hb] at hcol
    cases hcol
  rw [maskCovers_origin_iff h row hx0 hc, rowCovers_iff_span (Nat.sub_le 8 (x0 % 8)), or_iff_left hno]

/-- Where the other bits land in byte `q`, the two masks are the whole row. -/
theorem inverts_two_masks {h : HWrap} {row x0 q : Nat} (hrow : row < 32) (hx0 : x0 < 64) (sb : Byte) (hq : q < 8)
    (hne : x0 / 8 ≠ q)
    (hlands : ∀ b, 8 - x0 % 8 ≤ b → b < 8 → screenColumn h (x0 + b) = some (8 * q + (b - (8 - x0 % 8))))
    (acc : Framebuffer × Bool) :
    Inverts (RowCovers h row x0 sb) acc
      (blitMask (8 * row + q) (sb <<< (8 - x0 % 8)) (blitMask (8 * row + x0 / 8) (sb >>> (x0 % 8)) acc)) := by
  refine ((inverts_blitMask (by omega) _ acc).trans (inverts_blitMask (by omega) _ _) ?_).congr fun c r hc _ => ?_
  · rintro c r ⟨hbyte, -⟩ ⟨hbyte', -⟩
    omega
  · rw [maskCovers_origin_iff h row hx0 hc, maskCovers_next_iff hq hlands row hc,
      rowCovers_iff_span (Nat.sub_le 8 (x0 % 8))]

/-- Settles O27: both forms invert the pixels of the sprite byte; the masks are those of the bits that stay in the
origin's byte and, where they land, of the bits that span into the next. -/
theorem blitRowIsItsByteForm : Obligations.BlitRowIsItsByteForm := by
  intro h row x0 sb fb collide hrow hx0
  refine (inverts_blitRow h hrow x0 sb (fb, collide)).unique ?_
  unfold blitRowBytes
  by_cases hoff : x0 % 8 = 0
  · simp only [if_pos hoff]
    exact inverts_origin_mask hrow hx0 sb (fun b hge hb => by omega) _
  simp only [if_neg hoff]
  cases h with
  | clip =>
    by_cases hc : x0 / 8 ≤ 6
    · simp only [if_pos hc]
      refine inverts_two_masks hrow hx0 sb (q := x0 / 8 + 1) (by omega) (by omega) (fun b hge hb => ?_) _
      exact (screenColumn_eq_some_iff ..).mpr (.inl (by omega))
    · simp only [if_neg hc]
      refine inverts_origin_mask hrow hx0 sb (fun b hge hb => ?_) _
      rw [screenColumn, if_neg (by omega)]
  | wrap =>
    refine inverts_two_masks hrow hx0 sb (q := (x0 / 8 + 1) % 8) (by omega) (by omega) (fun b hge hb => ?_) _
    refine (screenColumn_eq_some_iff ..).mpr ?_
    obtain hlt | hge := Nat.lt_or_ge (x0 + b) 64
    · exact .inl (by omega)
    · exact .inr ⟨hge, rfl, by omega⟩

end Sys2Proof.Machine
end
